-- ==== Sys2Proof/Word.lean ====
section
/-! DEFINITION. The word types of the block: a byte on the wire, an operand slot, a command word, a response word. -/

namespace Sys2Proof

/-- A colour channel or one byte on the wire (R7, R11, R61). -/
abbrev Byte := BitVec 8

/-- One operand slot of a command word (R6 `SLOT_BITS`, R65). -/
abbrev Slot := BitVec 16

/-- A command word as the host hands it to the command port (R6 `CW_BITS`, R65). -/
abbrev CmdWord := BitVec 96

/-- A response word (R6 `RW_BITS`, R72). -/
abbrev RespWord := BitVec 32

end Sys2Proof
end

