-- ==== Sys2Proof/Syntax.lean ====
section
/-! DEFINITION. The commands of the block as terms (R60: the term is the primary level, the command word its transport):
one constructor per row of spec/opcode_table.json. -/

namespace Sys2Proof

/-- The 20 commands of R70; SETPIX and SETPIXS have one constructor for each value of `BP`, since R69 makes the omitted
and the given brightness different commands. An index, a colour value and a pin number is a mathematical integer (R67),
a brightness operand `n` stands for the rational `n / 1000` (R68), a flag is a Boolean (R183). -/
inductive Instr where
  /-- SETR i, v (R101) -/
  | setr (i v : Int)
  /-- SETG i, v (R102) -/
  | setg (i v : Int)
  /-- SETB i, v (R103) -/
  | setb (i v : Int)
  /-- PSETBR i, br (R104) -/
  | psetbr (i br : Int)
  /-- SETRGBB i, r, g, b, br (R105) -/
  | setrgbb (i r g b br : Int)
  /-- PCLR i (R106) -/
  | pclr (i : Int)
  /-- GETR i (R107) -/
  | getr (i : Int)
  /-- GETG i (R108) -/
  | getg (i : Int)
  /-- GETB i (R109) -/
  | getb (i : Int)
  /-- GETBR i (R110) -/
  | getbr (i : Int)
  /-- GETBRV i (R111) -/
  | getbrv (i : Int)
  /-- SETPIX i, r, g, b with the brightness omitted (`BP = 0`, R120) -/
  | setpix (i r g b : Int)
  /-- SETPIX i, r, g, b, br (`BP = 1`, R120) -/
  | setpixBr (i r g b br : Int)
  /-- SETPIXS r, g, b with the brightness omitted (`BP = 0`, R121) -/
  | setpixs (r g b : Int)
  /-- SETPIXS r, g, b, br (`BP = 1`, R121) -/
  | setpixsBr (r g b br : Int)
  /-- SETBRT br (R122) -/
  | setbrt (br : Int)
  /-- CLEAR (R123) -/
  | clear
  /-- GETPIX i (R124) -/
  | getpix (i : Int)
  /-- SHOW (R150) -/
  | showFrame
  /-- SETUP d, c (R180) -/
  | setup (d c : Int)
  /-- SETCOE f (R183) -/
  | setcoe (f : Bool)
  /-- TEARDOWN (R184) -/
  | teardown
  deriving DecidableEq, Repr

end Sys2Proof
end

