-- ==== Sys2Proof/WellFormed.lean ====
section
/-! DEFINITION. Which command terms fit a command word: every integer operand, and the brightness operand in thousandths,
lies in the range of a signed 16-bit slot (R67, R68). -/

namespace Sys2Proof

/-- The operand fits one slot: it is in -32768..32767 (R67, R68). -/
abbrev FitsSlot (x : Int) : Prop := -32768 ≤ x ∧ x ≤ 32767

/-- The integer operands of a command in the order of its slots, the brightness (in thousandths) last. The flag of SETCOE
is a Boolean and always fits (R66). -/
def Instr.operands : Instr → List Int
  | .setr i v => [i, v]
  | .setg i v => [i, v]
  | .setb i v => [i, v]
  | .psetbr i br => [i, br]
  | .setrgbb i r g b br => [i, r, g, b, br]
  | .pclr i => [i]
  | .getr i => [i]
  | .getg i => [i]
  | .getb i => [i]
  | .getbr i => [i]
  | .getbrv i => [i]
  | .setpix i r g b => [i, r, g, b]
  | .setpixBr i r g b br => [i, r, g, b, br]
  | .setpixs r g b => [r, g, b]
  | .setpixsBr r g b br => [r, g, b, br]
  | .setbrt br => [br]
  | .clear => []
  | .getpix i => [i]
  | .showFrame => []
  | .setup d c => [d, c]
  | .setcoe _ => []
  | .teardown => []

/-- The term can be put in a command word. An operand out of its command's LEGAL range is still well-formed: the word is
meant to carry illegal values, so that the error rules can be exercised (R67). -/
abbrev Instr.WellFormed (i : Instr) : Prop := ∀ x ∈ i.operands, FitsSlot x

end Sys2Proof
end

