-- ==== Sys2Proof/Decode.lean ====
section
/-! DEFINITION. The command word: its fields (R65), the opcode map (R70), the formats (R66), the decoder (R71, R73), which is
total and rejects by name, the encoder, and the opcode table's match and mask rows (R70). -/

namespace Sys2Proof

/-- The fields of a command word (R65). -/
structure Fields where
  op  : BitVec 8
  rsv : BitVec 7
  bp  : BitVec 1
  a   : Slot
  b   : Slot
  c   : Slot
  d   : Slot
  e   : Slot
  deriving DecidableEq, Repr

/-- The fields of a word (R65): `OP` 95:88, `RSV` 87:81, `BP` 80, slots `A` 79:64 down to `E` 15:0. -/
def unpack (w : CmdWord) : Fields :=
  { op  := w.extractLsb' 88 8
    rsv := w.extractLsb' 81 7
    bp  := w.extractLsb' 80 1
    a   := w.extractLsb' 64 16
    b   := w.extractLsb' 48 16
    c   := w.extractLsb' 32 16
    d   := w.extractLsb' 16 16
    e   := w.extractLsb' 0 16 }

/-- The word with these fields (R65), `OP` in the highest bits. -/
def pack (f : Fields) : CmdWord :=
  f.op ++ f.rsv ++ f.bp ++ f.a ++ f.b ++ f.c ++ f.d ++ f.e

/-- The 20 mnemonics of R70. -/
inductive Opcode where
  | setr | setg | setb | psetbr | setrgbb | pclr | getr | getg | getb | getbr | getbrv
  | setpix | setpixs | setbrt | clear | getpix | showFrame | setup | setcoe | teardown
  deriving DecidableEq, Repr

/-- The opcode map of R70, from number to command. -/
def Opcode.ofCode (o : BitVec 8) : Option Opcode :=
  match o.toNat with
  | 0x10 => some .setr
  | 0x11 => some .setg
  | 0x12 => some .setb
  | 0x13 => some .psetbr
  | 0x14 => some .setrgbb
  | 0x15 => some .pclr
  | 0x18 => some .getr
  | 0x19 => some .getg
  | 0x1A => some .getb
  | 0x1B => some .getbr
  | 0x1C => some .getbrv
  | 0x20 => some .setpix
  | 0x21 => some .setpixs
  | 0x22 => some .setbrt
  | 0x23 => some .clear
  | 0x24 => some .getpix
  | 0x30 => some .showFrame
  | 0x40 => some .setup
  | 0x41 => some .setcoe
  | 0x42 => some .teardown
  | _ => none

/-- The opcode map of R70, from command to number. -/
def Opcode.code : Opcode → BitVec 8
  | .setr => 0x10
  | .setg => 0x11
  | .setb => 0x12
  | .psetbr => 0x13
  | .setrgbb => 0x14
  | .pclr => 0x15
  | .getr => 0x18
  | .getg => 0x19
  | .getb => 0x1A
  | .getbr => 0x1B
  | .getbrv => 0x1C
  | .setpix => 0x20
  | .setpixs => 0x21
  | .setbrt => 0x22
  | .clear => 0x23
  | .getpix => 0x24
  | .showFrame => 0x30
  | .setup => 0x40
  | .setcoe => 0x41
  | .teardown => 0x42

/-- The formats of R66. -/
inductive Format where
  | n | i | iv | it | iq | iqo | qo | t | p | f
  deriving DecidableEq, Repr

/-- The format of each command (R66, R70). -/
def Opcode.format : Opcode → Format
  | .clear | .showFrame | .teardown => .n
  | .pclr | .getr | .getg | .getb | .getbr | .getbrv | .getpix => .i
  | .setr | .setg | .setb => .iv
  | .psetbr => .it
  | .setrgbb => .iq
  | .setpix => .iqo
  | .setpixs => .qo
  | .setbrt => .t
  | .setup => .p
  | .setcoe => .f

/-- The slots `A`, `B`, `C`, `D`, `E` a format uses (R66). Slot `E` of formats IQo and Qo is used exactly when `BP = 1`
(R69, R71 item 4). -/
def Format.uses (bp : BitVec 1) : Format → Bool × Bool × Bool × Bool × Bool
  | .n   => (false, false, false, false, false)
  | .i   => (true, false, false, false, false)
  | .iv  => (true, true, false, false, false)
  | .it  => (true, false, false, false, true)
  | .iq  => (true, true, true, true, true)
  | .iqo => (true, true, true, true, bp == 1)
  | .qo  => (false, true, true, true, bp == 1)
  | .t   => (false, false, false, false, true)
  | .p   => (true, true, false, false, false)
  | .f   => (true, false, false, false, false)

/-- The format may carry `BP = 1`: SETPIX and SETPIXS only (R65, R71 item 3). -/
def Format.optionalBrightness : Format → Bool
  | .iqo | .qo => true
  | _ => false

/-- Every slot the format does not use is 0 (R66, R71 item 4). -/
def unusedSlotsZero (fmt : Format) (f : Fields) : Bool :=
  let (ua, ub, uc, ud, ue) := fmt.uses f.bp
  (ua || f.a == 0) && (ub || f.b == 0) && (uc || f.c == 0) && (ud || f.d == 0) && (ue || f.e == 0)

/-- Why a command word is illegal: the five items of R71, in the order in which R73 tests them. -/
inductive Illegal where
  /-- item 1: `OP` is none of the 20 opcodes -/
  | unknownOpcode
  /-- item 2: `RSV` is not 0 -/
  | reservedBits
  /-- item 3: `BP = 1` on a command other than SETPIX and SETPIXS -/
  | brightnessBit
  /-- item 4: a slot the format does not use is not 0 -/
  | unusedSlot
  /-- item 5: the flag of SETCOE is neither 0 nor 1 -/
  | flagValue
  deriving DecidableEq, Repr

/-- `sext_16` of R7 and R67: the slot as a signed integer. -/
def slotInt (x : Slot) : Int := x.toInt

/-- The term of a word whose opcode, reserved bits, `BP` and unused slots have passed (R73, its last lines). -/
def operandsOf (op : Opcode) (f : Fields) : Except Illegal Instr :=
  match op with
  | .setr => .ok (.setr (slotInt f.a) (slotInt f.b))
  | .setg => .ok (.setg (slotInt f.a) (slotInt f.b))
  | .setb => .ok (.setb (slotInt f.a) (slotInt f.b))
  | .psetbr => .ok (.psetbr (slotInt f.a) (slotInt f.e))
  | .setrgbb => .ok (.setrgbb (slotInt f.a) (slotInt f.b) (slotInt f.c) (slotInt f.d) (slotInt f.e))
  | .pclr => .ok (.pclr (slotInt f.a))
  | .getr => .ok (.getr (slotInt f.a))
  | .getg => .ok (.getg (slotInt f.a))
  | .getb => .ok (.getb (slotInt f.a))
  | .getbr => .ok (.getbr (slotInt f.a))
  | .getbrv => .ok (.getbrv (slotInt f.a))
  | .setpix =>
    if f.bp = 1 then .ok (.setpixBr (slotInt f.a) (slotInt f.b) (slotInt f.c) (slotInt f.d) (slotInt f.e))
    else .ok (.setpix (slotInt f.a) (slotInt f.b) (slotInt f.c) (slotInt f.d))
  | .setpixs =>
    if f.bp = 1 then .ok (.setpixsBr (slotInt f.b) (slotInt f.c) (slotInt f.d) (slotInt f.e))
    else .ok (.setpixs (slotInt f.b) (slotInt f.c) (slotInt f.d))
  | .setbrt => .ok (.setbrt (slotInt f.e))
  | .clear => .ok .clear
  | .getpix => .ok (.getpix (slotInt f.a))
  | .showFrame => .ok .showFrame
  | .setup => .ok (.setup (slotInt f.a) (slotInt f.b))
  | .setcoe =>
    if f.a = 0 then .ok (.setcoe false)
    else if f.a = 1 then .ok (.setcoe true)
    else .error .flagValue
  | .teardown => .ok .teardown

/-- The decoder of R73 on the fields of a word. -/
def decodeFields (f : Fields) : Except Illegal Instr :=
  match Opcode.ofCode f.op with
  | none => .error .unknownOpcode
  | some op =>
    if f.rsv ≠ 0 then .error .reservedBits
    else if f.bp = 1 ∧ op.format.optionalBrightness = false then .error .brightnessBit
    else if unusedSlotsZero op.format f = false then .error .unusedSlot
    else operandsOf op f

/-- The decoder of R73: every 96-bit word gives a term or the reason why it is illegal (R71). -/
def decode (w : CmdWord) : Except Illegal Instr := decodeFields (unpack w)

/-- The slot that carries an integer operand (R67); the inverse of `slotInt` on the operands that fit. -/
def intSlot (x : Int) : Slot := BitVec.ofInt 16 x

/-- The opcode of a command (R70). -/
def Instr.opcode : Instr → Opcode
  | .setr _ _ => .setr
  | .setg _ _ => .setg
  | .setb _ _ => .setb
  | .psetbr _ _ => .psetbr
  | .setrgbb _ _ _ _ _ => .setrgbb
  | .pclr _ => .pclr
  | .getr _ => .getr
  | .getg _ => .getg
  | .getb _ => .getb
  | .getbr _ => .getbr
  | .getbrv _ => .getbrv
  | .setpix _ _ _ _ => .setpix
  | .setpixBr _ _ _ _ _ => .setpix
  | .setpixs _ _ _ => .setpixs
  | .setpixsBr _ _ _ _ => .setpixs
  | .setbrt _ => .setbrt
  | .clear => .clear
  | .getpix _ => .getpix
  | .showFrame => .showFrame
  | .setup _ _ => .setup
  | .setcoe _ => .setcoe
  | .teardown => .teardown

/-- The fields of a word that has this opcode, reserved bits 0 and these operand fields (R65). -/
def fieldsOf (op : Opcode) (bp : BitVec 1) (a b c d e : Slot) : Fields :=
  { op := op.code, rsv := 0, bp, a, b, c, d, e }

/-- The fields of a command (R66, R69): unused slots 0, and `BP = 1` exactly where the brightness of SETPIX or SETPIXS is
given. -/
def encodeFields : Instr → Fields
  | .setr i v => fieldsOf .setr 0 (intSlot i) (intSlot v) 0 0 0
  | .setg i v => fieldsOf .setg 0 (intSlot i) (intSlot v) 0 0 0
  | .setb i v => fieldsOf .setb 0 (intSlot i) (intSlot v) 0 0 0
  | .psetbr i br => fieldsOf .psetbr 0 (intSlot i) 0 0 0 (intSlot br)
  | .setrgbb i r g b br => fieldsOf .setrgbb 0 (intSlot i) (intSlot r) (intSlot g) (intSlot b) (intSlot br)
  | .pclr i => fieldsOf .pclr 0 (intSlot i) 0 0 0 0
  | .getr i => fieldsOf .getr 0 (intSlot i) 0 0 0 0
  | .getg i => fieldsOf .getg 0 (intSlot i) 0 0 0 0
  | .getb i => fieldsOf .getb 0 (intSlot i) 0 0 0 0
  | .getbr i => fieldsOf .getbr 0 (intSlot i) 0 0 0 0
  | .getbrv i => fieldsOf .getbrv 0 (intSlot i) 0 0 0 0
  | .setpix i r g b => fieldsOf .setpix 0 (intSlot i) (intSlot r) (intSlot g) (intSlot b) 0
  | .setpixBr i r g b br => fieldsOf .setpix 1 (intSlot i) (intSlot r) (intSlot g) (intSlot b) (intSlot br)
  | .setpixs r g b => fieldsOf .setpixs 0 0 (intSlot r) (intSlot g) (intSlot b) 0
  | .setpixsBr r g b br => fieldsOf .setpixs 1 0 (intSlot r) (intSlot g) (intSlot b) (intSlot br)
  | .setbrt br => fieldsOf .setbrt 0 0 0 0 0 (intSlot br)
  | .clear => fieldsOf .clear 0 0 0 0 0 0
  | .getpix i => fieldsOf .getpix 0 (intSlot i) 0 0 0 0
  | .showFrame => fieldsOf .showFrame 0 0 0 0 0 0
  | .setup d c => fieldsOf .setup 0 (intSlot d) (intSlot c) 0 0 0
  | .setcoe f => fieldsOf .setcoe 0 (if f then 1 else 0) 0 0 0 0
  | .teardown => fieldsOf .teardown 0 0 0 0 0 0

/-- The command word of a command: the encoder of R73. -/
def encode (i : Instr) : CmdWord := pack (encodeFields i)

/-- One row of the opcode table (R70): a word belongs to the row exactly when `word & mask = pattern`. -/
structure OpRow where
  opcode  : Opcode
  mask    : CmdWord
  pattern : CmdWord
  deriving DecidableEq, Repr

/-- The 22 rows of R70's table: two for SETPIX and two for SETPIXS, one for each value of `BP`. -/
def opcodeTable : List OpRow :=
  [⟨.setr, 0xFFFF00000000FFFFFFFFFFFF, 0x100000000000000000000000⟩,
   ⟨.setg, 0xFFFF00000000FFFFFFFFFFFF, 0x110000000000000000000000⟩,
   ⟨.setb, 0xFFFF00000000FFFFFFFFFFFF, 0x120000000000000000000000⟩,
   ⟨.psetbr, 0xFFFF0000FFFFFFFFFFFF0000, 0x130000000000000000000000⟩,
   ⟨.setrgbb, 0xFFFF00000000000000000000, 0x140000000000000000000000⟩,
   ⟨.pclr, 0xFFFF0000FFFFFFFFFFFFFFFF, 0x150000000000000000000000⟩,
   ⟨.getr, 0xFFFF0000FFFFFFFFFFFFFFFF, 0x180000000000000000000000⟩,
   ⟨.getg, 0xFFFF0000FFFFFFFFFFFFFFFF, 0x190000000000000000000000⟩,
   ⟨.getb, 0xFFFF0000FFFFFFFFFFFFFFFF, 0x1A0000000000000000000000⟩,
   ⟨.getbr, 0xFFFF0000FFFFFFFFFFFFFFFF, 0x1B0000000000000000000000⟩,
   ⟨.getbrv, 0xFFFF0000FFFFFFFFFFFFFFFF, 0x1C0000000000000000000000⟩,
   ⟨.setpix, 0xFFFF0000000000000000FFFF, 0x200000000000000000000000⟩] ++
  [⟨.setpix, 0xFFFF00000000000000000000, 0x200100000000000000000000⟩,
   ⟨.setpixs, 0xFFFFFFFF000000000000FFFF, 0x210000000000000000000000⟩,
   ⟨.setpixs, 0xFFFFFFFF0000000000000000, 0x210100000000000000000000⟩,
   ⟨.setbrt, 0xFFFFFFFFFFFFFFFFFFFF0000, 0x220000000000000000000000⟩,
   ⟨.clear, 0xFFFFFFFFFFFFFFFFFFFFFFFF, 0x230000000000000000000000⟩,
   ⟨.getpix, 0xFFFF0000FFFFFFFFFFFFFFFF, 0x240000000000000000000000⟩,
   ⟨.showFrame, 0xFFFFFFFFFFFFFFFFFFFFFFFF, 0x300000000000000000000000⟩,
   ⟨.setup, 0xFFFF00000000FFFFFFFFFFFF, 0x400000000000000000000000⟩,
   ⟨.setcoe, 0xFFFFFFFEFFFFFFFFFFFFFFFF, 0x410000000000000000000000⟩,
   ⟨.teardown, 0xFFFFFFFFFFFFFFFFFFFFFFFF, 0x420000000000000000000000⟩]

/-- The word belongs to the row (R70). -/
def OpRow.Matches (r : OpRow) (w : CmdWord) : Bool := w &&& r.mask == r.pattern

/-- The host's view of the decoder: the command whose word has the low `nbits` bits of `w`, every bit above them 0. A
command word is one parallel word with no byte order (R43), so bit k of `w` is bit k of the word. A number that does not
fit 96 bits is no command word (R65). -/
def decodeTableWord (nbits w : Nat) : Option Instr :=
  if w % 2 ^ nbits < 2 ^ 96 then
    match decode (BitVec.ofNat 96 (w % 2 ^ nbits)) with
    | .ok i => some i
    | .error _ => none
  else none

end Sys2Proof
end

