-- ==== Sys2Proof/Config.lean ====
section
/-! DEFINITION. The free values: what the spec leaves open although the block goes on. None has a body, so no proof
can know one; each is applied to the counter `State.draws`, which a use advances. -/

namespace Sys2Proof.Config

/-- The provider's answer to an acquisition for which the environment's list `State.answers` holds none: R217 puts it
"under no law: it may differ from call to call" (log 4). -/
opaque freeGrant : Nat → Bool

/-- What `EBUF` holds once a frame has ended: R25 calls it dead in Idle and its value there unspecified, U12 says any
value (log 3). -/
opaque freeEbuf : Nat → Vector Byte 4

/-- What `SR` holds once a frame has ended (R25, U12; log 3). -/
opaque freeSr : Nat → Byte

end Sys2Proof.Config
end

