-- ==== Sys2Proof/Machine/Params.lean ====
section
/-! DEFINITION. The parameters of R5 and R6, each under its own name, since the source's literals are unaudited (D25), and
the positions of a frame that follow from them (R18, R159). -/

namespace Sys2Proof.Config

/-- `N_PIXELS` (R5). -/
abbrev nPixels : Nat := 8
/-- `CH_MIN` (R5). -/
abbrev chMin : Int := 0
/-- `CH_MAX` (R5). -/
abbrev chMax : Int := 255
/-- `BRT_DEN` (R6): a brightness is held and carried as the integer `n` of `n / BRT_DEN`. -/
abbrev brtDen : Nat := 1000
/-- `BRT_MIN` (R5), 0.0 in units of `1 / BRT_DEN`. -/
abbrev brtMin : Int := 0
/-- `BRT_MAX` (R5), 1.0 in units of `1 / BRT_DEN`. -/
abbrev brtMax : Int := 1000
/-- `BRT_SCALE` (R5). -/
abbrev brtScale : Nat := 31
/-- `BRT_MASK` (R5). -/
abbrev brtMask : Nat := 0x1F
/-- `HDR_PREFIX` (R5). -/
abbrev hdrPrefix : Byte := 0xE0
/-- The mask of the colour getters (R107): "masked to 8 bits". -/
abbrev chMask : Byte := 0xFF
/-- `BYTES_PER_PIXEL` (R5). -/
abbrev bytesPerPixel : Nat := 4
/-- Brightness 0.2 of `DEFAULT_PIXEL` (R5, R13), in units of `1 / BRT_DEN`. -/
abbrev defBrt : Nat := 200
/-- `START_PULSES` (R5). -/
abbrev startPulses : Nat := 32
/-- `END_PULSES` (R5). -/
abbrev endPulses : Nat := 36
/-- `PIN_MIN` (R5). -/
abbrev pinMin : Int := 1
/-- `PIN_MAX` (R5). -/
abbrev pinMax : Int := 27
/-- `DEF_DATA_PIN` (R5). -/
abbrev defDataPin : Int := 23
/-- `DEF_CLK_PIN` (R5). -/
abbrev defClkPin : Int := 24
/-- `DEF_COE` (R5). -/
abbrev defCoe : Bool := false
/-- `DEF_COE_ARG` (R5). -/
abbrev defCoeArg : Bool := true
/-- `GPIO_WRITE_CAN_FAIL` (R6, R206, C4): the model has no failing line write (log 11). -/
abbrev gpioWriteCanFail : Bool := false

/-- Bits of one byte on the wire (R153: "repeat 8 times"). -/
abbrev bitsPerByte : Nat := 8
/-- Line writes of one bit: data, clock high, clock low (R153, R158 `BIT`). -/
abbrev writesPerBit : Nat := 3
/-- Line writes of one byte: 24 (R153). -/
abbrev byteWrites : Nat := writesPerBit * bitsPerByte
/-- Line writes of one pixel: 96 (R153, R158 `PIXW`). -/
abbrev pixelWrites : Nat := byteWrites * bytesPerPixel
/-- Line writes of the start marker, 65: the position of the first pixel's first write (R152, R18). -/
abbrev pixelStart : Nat := 1 + 2 * startPulses
/-- The position of the end marker's first write, 833 (R18). -/
abbrev endStart : Nat := pixelStart + pixelWrites * nPixels
/-- Line writes of a frame, 906 (R18, R159). -/
abbrev frameWrites : Nat := endStart + (1 + 2 * endPulses)

end Sys2Proof.Config
end

