-- ==== Sys2Proof/Machine/State.lean ====
section
/-! DEFINITION. The state of the block (R10), the reasons a step can stop, and the state after reset (R29, R230). -/

namespace Sys2Proof.Machine

open Sys2Proof

/-- One pixel record (R11). The colours are unsigned 8-bit values; the brightness is the rational `brt / 1000`, held as the
integer (R11 allows it; log 8). -/
structure Pixel where
  r   : Byte
  g   : Byte
  b   : Byte
  brt : Nat
  deriving DecidableEq, Repr

/-- `DEFAULT_PIXEL` (R5, R13). -/
def defaultPixel : Pixel := { r := 0, g := 0, b := 0, brt := Config.defBrt }

/-- The index of a pixel, 0..7 (R28). -/
abbrev PixelIndex := Fin Config.nPixels

/-- The two output lines (R9). -/
inductive Line where
  | dat
  | clk
  deriving DecidableEq, Repr

/-- The level last written to a line: 0, 1 or X, unknown (R24). -/
inductive Level where
  | zero
  | one
  | x
  deriving DecidableEq, Repr

/-- `TX.PHASE` (R16). -/
inductive Phase where
  | idle
  | startFrame
  | pixel
  | endFrame
  deriving DecidableEq, Repr

/-- Which command a running frame belongs to: SHOW, or the SHOW inside TEARDOWN (R150, R184). The port is busy with that
command until its response is given (R47). -/
inductive FrameOwner where
  | byShow
  | byTeardown
  deriving DecidableEq, Repr

/-- The sequencer (R16, R18): Idle, where `SEQ = 0`, or a frame of the command `owner` in which `seq` line writes have been
made, `seq` in 0..905 being the position of the next one. -/
inductive Tx where
  | idle
  | sending (owner : FrameOwner) (seq : Fin Config.frameWrites)
  deriving DecidableEq, Repr

/-- `LIFE` (R23). -/
inductive Life where
  | alive
  | released
  deriving DecidableEq, Repr

/-- The errors of R200. -/
inductive Err where
  | invalidColorValue
  | invalidBrightnessLevel
  | invalidPixelIndex
  | invalidGpioPin
  | gpioAcquireFailed
  | gpioWriteFailed
  | illegalCommand
  deriving DecidableEq, Repr

/-- A GPIO event: one call on the provider (R52). -/
inductive Event where
  /-- `ACQ(n)` -/
  | acq (pin : Nat)
  /-- `SET(line, v)` -/
  | set (line : Line) (v : Bool)
  /-- `REL(n)` -/
  | rel (pin : Nat)
  deriving DecidableEq, Repr

/-- What the host does next (R47, R230, R232; log 5, 6). -/
inductive HostInput where
  /-- it offers a command word on the command port -/
  | command (w : CmdWord)
  /-- it resets the block: at once if the block is Idle, and in a frame as soon as `after` line writes of it have been made -/
  | reset (after : Nat)
  deriving DecidableEq, Repr

/-- The whole state: the tuple of R10, then the block's output and its inputs (R27), which the model holds because a step is
a function of the state. -/
structure State where
  /-- the pixel buffer `PIX[0..7]` (R11) -/
  pix     : Vector Pixel Config.nPixels
  /-- the sequencer `TX` (R16 to R18) -/
  tx      : Tx
  /-- `READY` (R20) -/
  ready   : Bool
  /-- `COE` (R21) -/
  coe     : Bool
  /-- `DATA_PIN` (R22) -/
  dataPin : Option Nat
  /-- `CLK_PIN` (R22) -/
  clkPin  : Option Nat
  /-- `LIFE` (R23) -/
  life    : Life
  /-- `LVL_DAT` (R24) -/
  lvlDat  : Level
  /-- `LVL_CLK` (R24) -/
  lvlClk  : Level
  /-- `EBUF[0..3]` (R25) -/
  ebuf    : Vector Byte Config.bytesPerPixel
  /-- `SR` (R25) -/
  sr      : Byte
  /-- `RESP` (R26, R72) -/
  resp    : RespWord
  /-- the GPIO events since reset, newest first; `State.trace` is the trace of R52 (log 13) -/
  traceRev : List Event
  /-- what the host does next, first one first (log 5, 6) -/
  host    : List HostInput
  /-- the provider's coming answers, first one first (R217; log 4) -/
  answers : List Bool
  /-- how many free values have been used (log 4) -/
  draws   : Nat
  deriving DecidableEq, Repr

/-- Why the machine stops. -/
inductive Fault where
  /-- Raised by `portStep` and by every meaning (through `taken`) in `LIFE = RELEASED` with no reset waiting: no command is
  taken there and only a reset has a step (R185, U6). Safe: the run stops where the spec gives no step. -/
  | released
  /-- Raised by every meaning (through `taken`) on a state in which a frame runs: no command is taken there (R47). `step`
  never raises it, since it makes the frame's next line write instead (R156). Safe: the run stops. -/
  | busy
  deriving DecidableEq, Repr

/-- Why a command has no meaning. -/
inductive Refusal where
  /-- Raised by an arm of `exec` whose command has no meaning yet; no arm does. Safe. -/
  | notModelled (mnemonic : String)
  deriving DecidableEq, Repr

/-- The state after reset (R29, R230). The spec gives no value for `ebuf` and `sr` (log 2) and `resp` (log 1); the model's
own fields `host`, `answers` and `draws` are empty, empty and 0 (log 4, 5). -/
def State.reset : State :=
  { pix := Vector.replicate Config.nPixels defaultPixel
    tx := .idle
    ready := false
    coe := Config.defCoe
    dataPin := none
    clkPin := none
    life := .alive
    lvlDat := .x
    lvlClk := .x
    ebuf := Vector.replicate Config.bytesPerPixel 0
    sr := 0
    resp := 0
    traceRev := []
    host := []
    answers := []
    draws := 0 }

end Sys2Proof.Machine
end

