-- ==== Sys2Proof/Machine/Ops.lean ====
section
/-! DEFINITION. The named operations of R8 over the state: the response and raising an error (R72, R210, the block's whole
"exception"; there is no return from one, R211), reading and writing pixels, the calls on the GPIO provider, taking a
command, reset. -/

namespace Sys2Proof.Machine

open Sys2Proof

/-! ### The response -/

/-- The status code of an error (R200). -/
def Err.code : Err → BitVec 8
  | .invalidColorValue => 1
  | .invalidBrightnessLevel => 2
  | .invalidPixelIndex => 3
  | .invalidGpioPin => 4
  | .gpioAcquireFailed => 5
  | .gpioWriteFailed => 6
  | .illegalCommand => 7

/-- The response word of a command that succeeds with this value: status 0 (R72). -/
def okWord (value : BitVec 16) : RespWord := (0 : BitVec 8) ++ (0 : BitVec 8) ++ value

/-- The response word of a command that fails: the error's code and value 0 (R72, R200, R210). -/
def errWord (e : Err) : RespWord := e.code ++ (0 : BitVec 8) ++ (0 : BitVec 16)

/-- `RW[31:24]` (R72). -/
def respStatus (w : RespWord) : BitVec 8 := w.extractLsb' 24 8

/-- `RW[15:0]` (R72). -/
def respValue (w : RespWord) : BitVec 16 := w.extractLsb' 0 16

/-- Gives the response of the command (R26, R72). -/
def State.respond (s : State) (w : RespWord) : State := { s with resp := w }

/-- How the pseudocode of a command ends: at its last line with a value (`resp <- v`), or at a `raise`. In both cases the
state is what its statements have made of it by then (R8, R210). -/
inductive Result where
  | done (s : State) (value : BitVec 16)
  | raised (s : State) (e : Err)
  deriving DecidableEq, Repr

/-- The end of a command: its response is given and nothing else changes (R72, R210). -/
def Result.answer : Result → State
  | .done s v => s.respond (okWord v)
  | .raised s e => s.respond (errWord e)

/-- One command doing another's work before its own (R211): an error of the inner work ends the outer command, unmodified. -/
def Result.andThen (x : Result) (k : State → Result) : Result :=
  match x with
  | .done s _ => k s
  | .raised s e => .raised s e

/-! ### The pixel buffer -/

/-- `PixRead(i)` (R8). -/
def State.pixRead (s : State) (i : PixelIndex) : Pixel := s.pix[i]

/-- `PixWrite(i, rec)` (R8). -/
def State.pixWrite (s : State) (i : PixelIndex) (p : Pixel) : State := { s with pix := s.pix.set i p }

/-- What a loop over the strip does: `f` for each listed pixel in order, stopping at the first error, with no roll-back
(R121, R122, R123). -/
def forPixels (f : PixelIndex → State → Result) : List PixelIndex → State → Result
  | [], s => .done s 0
  | k :: ks, s => (f k s).andThen (forPixels f ks)

/-- The indices 0, 1, ..., 7 in this order (R44, R112, R121). -/
def allPixels : List PixelIndex := List.finRange Config.nPixels

/-! ### The GPIO provider -/

/-- Appends an event to the trace (R52). -/
def State.emit (s : State) (e : Event) : State := { s with traceRev := e :: s.traceRev }

/-- The trace of R52: every GPIO event since reset, in order. -/
def State.trace (s : State) : List Event := s.traceRev.reverse

/-- The provider's answer to one call (R217): the next one the environment has supplied, else a free value (log 4). -/
def askProvider (s : State) : Bool × State :=
  match s.answers with
  | a :: as => (a, { s with answers := as })
  | [] => (Config.freeGrant s.draws, { s with draws := s.draws + 1 })

/-- `GpioAcquire(n)` (R8, R213): the event `ACQ(n)`, and whether the provider grants the pin. -/
def gpioAcquire (n : Nat) (s : State) : Bool × State := askProvider (s.emit (.acq n))

/-- The level of a line after a write of `v`. -/
def Level.ofBit (v : Bool) : Level := if v then .one else .zero

/-- The bookkeeping of R24: the level last written to the line. -/
def State.setLevel (s : State) : Line → Level → State
  | .dat, l => { s with lvlDat := l }
  | .clk, l => { s with lvlClk := l }

/-- `GpioSet(line, v)` (R8, R24, R214): the event `SET(line, v)` and the line's level. The answer says whether the write
succeeded: always, since `GPIO_WRITE_CAN_FAIL` is false (R206, C4); were it true, a write the provider fails would be an
event and leave the level as last written (U5; log 11). -/
def gpioSet (l : Line) (v : Bool) (s : State) : Bool × State :=
  let (ok, s1) := if Config.gpioWriteCanFail then askProvider s else (true, s)
  let s2 := s1.emit (.set l v)
  (ok, if ok then s2.setLevel l (Level.ofBit v) else s2)

/-- `GpioRelease` of the handle in a pin register: the event `REL(n)` (R8, R215). A register that holds no handle has nothing
to release (R215: "once per held handle"; log 12). -/
def gpioRelease (pin : Option Nat) (s : State) : State :=
  match pin with
  | some n => s.emit (.rel n)
  | none => s

/-! ### Taking a command, reset -/

/-- The block takes a command: only when it is idle and alive (R47, R185). Its pseudocode then runs from top to bottom and
always ends (R8, R246), so the outcome is a next state. -/
def taken (s : State) (run : State → State) : Host.Outcome State Fault Refusal :=
  match s.life, s.tx with
  | .released, _ => .fault .released
  | .alive, .sending _ _ => .fault .busy
  | .alive, .idle => .next (run s)

/-- Reset (R230, R232): every piece of the block's state and the trace go to their reset values at once, with no GPIO event.
The environment is not reset: the host's later inputs and the provider's coming answers stay (log 6). -/
def State.hostReset (s : State) : State :=
  { State.reset with host := s.host.tail, answers := s.answers, draws := s.draws }

end Sys2Proof.Machine
end

