-- ==== Sys2Proof/Machine/Flags.lean ====
section
/-! DEFINITION. The flags and the control state (R20 to R24): the writes of READY, COE, DATA_PIN, CLK_PIN, LIFE and of the
line levels. The block has no condition codes. -/

namespace Sys2Proof.Machine

open Sys2Proof

/-- A successful SETUP (R180): both pins are assigned, both levels become unknown, READY is set. -/
def State.assignPins (s : State) (d c : Nat) : State :=
  { s with dataPin := some d, clkPin := some c, lvlDat := .x, lvlClk := .x, ready := true }

/-- `COE <- f` (R183). -/
def State.writeCoe (s : State) (f : Bool) : State := { s with coe := f }

/-- `LIFE <- RELEASED` (R184). -/
def State.endLife (s : State) : State := { s with life := .released }

/-- `TX <- p` (R8). -/
def State.setTx (s : State) (p : Tx) : State := { s with tx := p }

/-- `EBUF <- v` (R153). -/
def State.setEbuf (s : State) (v : Vector Byte Config.bytesPerPixel) : State := { s with ebuf := v }

/-- `SR <- v` (R153). -/
def State.setSr (s : State) (v : Byte) : State := { s with sr := v }

end Sys2Proof.Machine
end

