-- ==== Sys2Proof/Machine/Operands.lean ====
section
/-! DEFINITION. The operand forms: the range tests on mathematical integers (R7, R146) that come before any write, the short
forms (R77) and the pseudo-commands (R78). -/

namespace Sys2Proof.Machine

open Sys2Proof

/-- A legal pixel index (R44, R100): the signed operand is in 0..7. -/
abbrev IndexOk (i : Int) : Prop := 0 ≤ i ∧ i < (Config.nPixels : Int)

/-- A legal colour value (R201). -/
abbrev ColorOk (v : Int) : Prop := Config.chMin ≤ v ∧ v ≤ Config.chMax

/-- A legal brightness (R202), in thousandths (R68): `0 <= n <= 1000`. -/
abbrev BrightnessOk (n : Int) : Prop := Config.brtMin ≤ n ∧ n ≤ Config.brtMax

/-- A legal pin number (R204). -/
abbrev PinOk (p : Int) : Prop := Config.pinMin ≤ p ∧ p ≤ Config.pinMax

/-- The pixel of a legal index; used only behind `IndexOk`. -/
def pixelAt (i : Int) : PixelIndex := Fin.ofNat Config.nPixels i.toNat

/-- The handle step of R100: an index out of range raises InvalidPixelIndex before anything is read or written. -/
def withIndex (i : Int) (s : State) (k : PixelIndex → Result) : Result :=
  if IndexOk i then k (pixelAt i) else .raised s .invalidPixelIndex

/-- The test of a colour operand (R201). -/
def withColor (v : Int) (s : State) (k : Byte → Result) : Result :=
  if ColorOk v then k (BitVec.ofInt 8 v) else .raised s .invalidColorValue

/-- The test of a brightness operand (R202); the value stored is the operand itself (R104). -/
def withBrightness (n : Int) (s : State) (k : Nat → Result) : Result :=
  if BrightnessOk n then k n.toNat else .raised s .invalidBrightnessLevel

/-- The tests of three colour operands: red, then green, then blue (R105, R209). -/
def withColors (r g b : Int) (s : State) (k : Byte → Byte → Byte → Result) : Result :=
  withColor r s fun r => withColor g s fun g => withColor b s fun b => k r g b

/-- `SETUP` without operands (R77). -/
def setupDefault : Instr := .setup Config.defDataPin Config.defClkPin

/-- `SETUP d` (R77). -/
def setupData (d : Int) : Instr := .setup d Config.defClkPin

/-- `SETCOE` without an operand (R77). -/
def setcoeDefault : Instr := .setcoe Config.defCoeArg

/-- `GETPIXS` (R78): `GETPIX 0; GETPIX 1; ...; GETPIX 7`. -/
def getpixs : List Instr := allPixels.map fun k => .getpix (k.val : Int)

end Sys2Proof.Machine
end

