-- ==== Sys2Proof/Machine/Lifecycle.lean ====
section
/-! DEFINITION. SETUP and SETCOE (R180, R181, R183), and the last lines of TEARDOWN (R184), which run after its frame, if it
sends one. -/

namespace Sys2Proof.Machine

open Sys2Proof

/-- The two acquisitions of SETUP, data pin first (R180, D11). The registers are written only when both are granted. -/
def acquirePins (d c : Nat) (s : State) : Result :=
  let (okD, s1) := gpioAcquire d s
  if okD then
    let (okC, s2) := gpioAcquire c s1
    if okC then .done (s2.assignPins d c) 0 else .raised s2 .gpioAcquireFailed
  else .raised s1 .gpioAcquireFailed

/-- The pseudocode of SETUP (R180). It makes no test of READY (R181). -/
def setupBody (d c : Int) (s : State) : Result :=
  if ¬ (PinOk d ∧ PinOk c) then .raised s .invalidGpioPin
  else if d = c then .raised s .invalidGpioPin
  else acquirePins d.toNat c.toNat s

/-- The pseudocode of SETCOE (R183). -/
def setcoeBody (f : Bool) (s : State) : Result := .done (s.writeCoe f) 0

/-- The lines of TEARDOWN after its SHOW (R184): the handles are released if READY, data first (D14), the life ends whatever
happened (D15), and the error of the SHOW, if any, is the status. -/
def teardownTail (err : Option Err) (s : State) : Result :=
  let s1 := if s.ready then gpioRelease s.clkPin (gpioRelease s.dataPin s) else s
  match err with
  | some e => .raised s1.endLife e
  | none => .done s1.endLife 0

/-- SETUP (R180, R181). -/
def execSetup (d c : Int) (s : State) : Host.Outcome State Fault Refusal := taken s fun s => (setupBody d c s).answer

/-- SETCOE (R183). -/
def execSetcoe (f : Bool) (s : State) : Host.Outcome State Fault Refusal := taken s fun s => (setcoeBody f s).answer

end Sys2Proof.Machine
end

