-- ==== Sys2Proof/Machine/Encoder.lean ====
section
/-! DEFINITION. The protocol encoder (R140 to R146): from one pixel record to 4 bytes, one 32-bit word, 32 bits. -/

namespace Sys2Proof.Machine

open Sys2Proof

/-- `enc5(n / 1000) = floor(31 × n / 1000) & 0x1F` (R140): an unsigned 5-bit value. -/
def enc5 (n : Nat) : BitVec 5 := BitVec.ofNat 5 ((Config.brtScale * n / Config.brtDen) &&& Config.brtMask)

/-- The header byte `0xE0 | enc5` (R141). -/
def header (n : Nat) : Byte := Config.hdrPrefix ||| (enc5 n).setWidth 8

/-- `Encode(p)` (R142): header, blue, green, red. -/
def encodePixel (p : Pixel) : Vector Byte Config.bytesPerPixel := #v[header p.brt, p.b, p.g, p.r]

/-- `PW(p)` (R61, R143). -/
def pixelWord (p : Pixel) : BitVec 32 := header p.brt ++ p.b ++ p.g ++ p.r

/-- The bits of a word, most significant first (R41). -/
def msbFirst {w : Nat} (x : BitVec w) : List Bool := (List.finRange w).map fun j => x.getMsb j

/-- `bitsOf(p)` (R143): the 32 bits of a pixel in sending order. -/
def bitsOf (p : Pixel) : List Bool := msbFirst (pixelWord p)

end Sys2Proof.Machine
end

