-- ==== Sys2Proof/Machine/PixelOps.lean ====
section
/-! DEFINITION. The commands on one pixel (R100 to R112). The body of a command is its pseudocode as a `Result`; the meaning
takes the command and gives the response. -/

namespace Sys2Proof.Machine

open Sys2Proof

/-- The pseudocode of SETR (R101). -/
def setrBody (i v : Int) (s : State) : Result :=
  withIndex i s fun k => withColor v s fun c => .done (s.pixWrite k { s.pixRead k with r := c }) 0

/-- The pseudocode of SETG (R102). -/
def setgBody (i v : Int) (s : State) : Result :=
  withIndex i s fun k => withColor v s fun c => .done (s.pixWrite k { s.pixRead k with g := c }) 0

/-- The pseudocode of SETB (R103). -/
def setbBody (i v : Int) (s : State) : Result :=
  withIndex i s fun k => withColor v s fun c => .done (s.pixWrite k { s.pixRead k with b := c }) 0

/-- The test and the write of a pixel's brightness (R104, R122). -/
def setBrightnessAt (br : Int) (k : PixelIndex) (s : State) : Result :=
  withBrightness br s fun n => .done (s.pixWrite k { s.pixRead k with brt := n }) 0

/-- The pseudocode of PSETBR (R104). -/
def psetbrBody (i br : Int) (s : State) : Result := withIndex i s fun k => setBrightnessAt br k s

/-- The pseudocode of SETRGBB (R105): all tests come before the one write. -/
def setrgbbBody (i r g b br : Int) (s : State) : Result :=
  withIndex i s fun k => withColors r g b s fun r g b => withBrightness br s fun n =>
    .done (s.pixWrite k { r := r, g := g, b := b, brt := n }) 0

/-- Zeroing the colours of one pixel; its brightness stays (R106, R123). -/
def clearAt (k : PixelIndex) (s : State) : Result :=
  .done (s.pixWrite k { s.pixRead k with r := 0, g := 0, b := 0 }) 0

/-- The pseudocode of PCLR (R106). -/
def pclrBody (i : Int) (s : State) : Result := withIndex i s fun k => clearAt k s

/-- The pseudocode of a getter: the handle step, then one read (R107 to R111, R112). -/
def getBody (read : Pixel → BitVec 16) (i : Int) (s : State) : Result :=
  withIndex i s fun k => .done s (read (s.pixRead k))

/-- A colour as a response value: masked to 8 bits and zero-extended (R107, R112). -/
def colorValue (c : Byte) : BitVec 16 := (c &&& Config.chMask).setWidth 16

/-- SETR (R101). -/
def execSetr (i v : Int) (s : State) : Host.Outcome State Fault Refusal := taken s fun s => (setrBody i v s).answer

/-- SETG (R102). -/
def execSetg (i v : Int) (s : State) : Host.Outcome State Fault Refusal := taken s fun s => (setgBody i v s).answer

/-- SETB (R103). -/
def execSetb (i v : Int) (s : State) : Host.Outcome State Fault Refusal := taken s fun s => (setbBody i v s).answer

/-- PSETBR (R104). -/
def execPsetbr (i br : Int) (s : State) : Host.Outcome State Fault Refusal := taken s fun s => (psetbrBody i br s).answer

/-- SETRGBB (R105). -/
def execSetrgbb (i r g b br : Int) (s : State) : Host.Outcome State Fault Refusal :=
  taken s fun s => (setrgbbBody i r g b br s).answer

/-- PCLR (R106). -/
def execPclr (i : Int) (s : State) : Host.Outcome State Fault Refusal := taken s fun s => (pclrBody i s).answer

/-- GETR (R107). -/
def execGetr (i : Int) (s : State) : Host.Outcome State Fault Refusal :=
  taken s fun s => (getBody (fun p => colorValue p.r) i s).answer

/-- GETG (R108). -/
def execGetg (i : Int) (s : State) : Host.Outcome State Fault Refusal :=
  taken s fun s => (getBody (fun p => colorValue p.g) i s).answer

/-- GETB (R109). -/
def execGetb (i : Int) (s : State) : Host.Outcome State Fault Refusal :=
  taken s fun s => (getBody (fun p => colorValue p.b) i s).answer

/-- GETBR (R110): the 5-bit encoded brightness, zero-extended (R112). -/
def execGetbr (i : Int) (s : State) : Host.Outcome State Fault Refusal :=
  taken s fun s => (getBody (fun p => (enc5 p.brt).setWidth 16) i s).answer

/-- GETBRV (R111): the integer n of the stored brightness n / 1000. -/
def execGetbrv (i : Int) (s : State) : Host.Outcome State Fault Refusal :=
  taken s fun s => (getBody (fun p => BitVec.ofNat 16 p.brt) i s).answer

end Sys2Proof.Machine
end

