-- ==== Sys2Proof/Machine/StripOps.lean ====
section
/-! DEFINITION. The commands on the strip (R120 to R126). -/

namespace Sys2Proof.Machine

open Sys2Proof

/-- The pseudocode of SETPIX (R120). Without a brightness none is tested and the record keeps its own (R69). -/
def setpixBody (i r g b : Int) (br : Option Int) (s : State) : Result :=
  withIndex i s fun k => withColors r g b s fun r g b =>
    match br with
    | some n => withBrightness n s fun n => .done (s.pixWrite k { r := r, g := g, b := b, brt := n }) 0
    | none => .done (s.pixWrite k { r := r, g := g, b := b, brt := (s.pixRead k).brt }) 0

/-- The pseudocode of SETPIXS (R121): what SETPIX k does, for k = 0, ..., 7 in this order; the first error ends it, with no
roll-back. That the partial outcome cannot occur (R125) is a fact about this loop, not built into it (C3, R243). -/
def setpixsBody (r g b : Int) (br : Option Int) (s : State) : Result :=
  forPixels (fun k => setpixBody (k.val : Int) r g b br) allPixels s

/-- The pseudocode of SETBRT (R122): the pixel's own test and write, pixel after pixel. -/
def setbrtBody (br : Int) (s : State) : Result := forPixels (setBrightnessAt br) allPixels s

/-- The pseudocode of CLEAR (R123). -/
def clearBody (s : State) : Result := forPixels clearAt allPixels s

/-- The pseudocode of GETPIX (R124): the handle of pixel i is the number i (D22). -/
def getpixBody (i : Int) (s : State) : Result := withIndex i s fun k => .done s (BitVec.ofNat 16 k.val)

/-- SETPIX with the brightness omitted (R120). -/
def execSetpix (i r g b : Int) (s : State) : Host.Outcome State Fault Refusal :=
  taken s fun s => (setpixBody i r g b none s).answer

/-- SETPIX with a brightness (R120). -/
def execSetpixBr (i r g b br : Int) (s : State) : Host.Outcome State Fault Refusal :=
  taken s fun s => (setpixBody i r g b (some br) s).answer

/-- SETPIXS with the brightness omitted (R121). -/
def execSetpixs (r g b : Int) (s : State) : Host.Outcome State Fault Refusal :=
  taken s fun s => (setpixsBody r g b none s).answer

/-- SETPIXS with a brightness (R121). -/
def execSetpixsBr (r g b br : Int) (s : State) : Host.Outcome State Fault Refusal :=
  taken s fun s => (setpixsBody r g b (some br) s).answer

/-- SETBRT (R122). -/
def execSetbrt (br : Int) (s : State) : Host.Outcome State Fault Refusal := taken s fun s => (setbrtBody br s).answer

/-- CLEAR (R123). -/
def execClear (s : State) : Host.Outcome State Fault Refusal := taken s fun s => (clearBody s).answer

/-- GETPIX (R124). -/
def execGetpix (i : Int) (s : State) : Host.Outcome State Fault Refusal := taken s fun s => (getpixBody i s).answer

end Sys2Proof.Machine
end

