-- ==== Sys2Proof/Machine/Transmitter.lean ====
section
/-! DEFINITION. The transmitter: the sequencer's positions (R16 to R18), its micro-step (R153, R156), a frame from its start
to its end (R150), SHOW and TEARDOWN. The frame as a list (R158) is in Frame.lean; that the two agree (R160) is a theorem. -/

namespace Sys2Proof.Machine

open Sys2Proof

/-! ### Positions -/

/-- The phase of a position (R18). -/
def phaseOf (n : Nat) : Phase :=
  if n < Config.pixelStart then .startFrame else if n < Config.endStart then .pixel else .endFrame

/-- `TX.PHASE` (R16). -/
def Tx.phase : Tx → Phase
  | .idle => .idle
  | .sending _ n => phaseOf n

/-- `SEQ` (R18): 0 in Idle. -/
def Tx.seq : Tx → Nat
  | .idle => 0
  | .sending _ n => n

/-- How far a position lies behind the first write of pixel 0. -/
def pixelOffset (n : Nat) : Nat := n - Config.pixelStart

/-- `TX.PIXI` (R17, R18): which pixel, in phase Pixel. -/
def pixiOf (n : Nat) : PixelIndex := Fin.ofNat Config.nPixels (pixelOffset n / Config.pixelWrites)

/-- `TX.BYTEI` (R17, R18): which byte of the pixel. -/
def byteiOf (n : Nat) : Fin Config.bytesPerPixel :=
  Fin.ofNat Config.bytesPerPixel (pixelOffset n % Config.pixelWrites / Config.byteWrites)

/-- `TX.BITI` (R17, R18): how many bits of the byte have been sent. -/
def bitiOf (n : Nat) : Nat := pixelOffset n % Config.byteWrites / Config.writesPerBit

/-- `TX.CNT` (R17, R18): how many clock pulses of the marker have been sent. -/
def cntOf (n : Nat) : Nat :=
  match phaseOf n with
  | .startFrame => (n - 1) / 2
  | .endFrame => (n - Config.endStart - 1) / 2
  | _ => 0

/-- `TX.SUB` (R17): which line write comes next. -/
inductive Sub where
  | d
  | h
  | l
  deriving DecidableEq, Repr

/-- The writes of a marker (R152, R154): one data write, then clock high and clock low in turn. -/
def markerSub (m : Nat) : Sub := if m = 0 then .d else if m % 2 = 1 then .h else .l

/-- The writes of a bit (R153): data, clock high, clock low. -/
def bitSub (m : Nat) : Sub :=
  match m % Config.writesPerBit with
  | 0 => .d
  | 1 => .h
  | _ => .l

/-- `TX.SUB` of a position (R17, R18). -/
def subOf (n : Nat) : Sub :=
  match phaseOf n with
  | .pixel => bitSub (pixelOffset n)
  | .endFrame => markerSub (n - Config.endStart)
  | _ => markerSub n

/-! ### The micro-step -/

/-- `EBUF <- Encode(PixRead(i))` on entry to `Pixel[i]` (R25, R51, R153), before its first write (log 9). -/
def loadEbuf (n : Nat) (s : State) : State :=
  if phaseOf n = .pixel ∧ pixelOffset n % Config.pixelWrites = 0 then s.setEbuf (encodePixel (s.pixRead (pixiOf n))) else s

/-- `SR <- EBUF[k]` at the start of byte k (R25, R153), before its first write (log 9). -/
def loadSr (n : Nat) (s : State) : State :=
  if phaseOf n = .pixel ∧ pixelOffset n % Config.byteWrites = 0 then s.setSr s.ebuf[byteiOf n] else s

/-- `SR <- (SR << 1) & 0xFF` after each bit's pulse (R153, R146). -/
def shiftSr (n : Nat) (s : State) : State :=
  if phaseOf n = .pixel ∧ subOf n = .l then s.setSr (s.sr <<< 1) else s

/-- The line write of a position (R152, R153, R154): a marker's data write is 0, a bit's is `(SR & 0x80) != 0`. -/
def lineWrite (n : Nat) (sr : Byte) : Line × Bool :=
  match subOf n with
  | .d => (.dat, phaseOf n = .pixel && sr &&& 0x80 != 0)
  | .h => (.clk, true)
  | .l => (.clk, false)

/-- The sequencer goes to Idle, and what EBUF and SR hold from then on is free (R18, R25, U12; log 3). -/
def State.toIdle (s : State) : State :=
  { s with tx := .idle, ebuf := Config.freeEbuf s.draws, sr := Config.freeSr s.draws, draws := s.draws + 1 }

/-- The command whose frame has ended ends: SHOW gives its response (R150, R157), TEARDOWN goes on with its last lines
(R184). -/
def finish (owner : FrameOwner) (err : Option Err) (s : State) : State :=
  match owner, err with
  | .byShow, none => (Result.done s 0).answer
  | .byShow, some e => (Result.raised s e).answer
  | .byTeardown, _ => (teardownTail err s).answer

/-- The move of the position after the write at `n` (R18, R156). -/
def advance (owner : FrameOwner) (n : Fin Config.frameWrites) (s : State) : State :=
  if h : n.val + 1 < Config.frameWrites then s.setTx (.sending owner ⟨n.val + 1, h⟩) else finish owner none s.toIdle

/-- `TxStep` (R156): exactly one line write, and the position moves by one; Idle has no such step. Were a write to fail, the
frame would stop there (U5, R206; log 11). -/
def txStep (s : State) : State :=
  match s.tx with
  | .idle => s
  | .sending owner n =>
    let s1 := loadSr n (loadEbuf n s)
    let w := lineWrite n s1.sr
    match gpioSet w.1 w.2 s1 with
    | (true, s2) => advance owner n (shiftSr n s2)
    | (false, s2) => finish owner (some .gpioWriteFailed) s2.toIdle

/-- The host's reset arrives now (R232; log 6): the host's next input is a reset, and the block is Idle or has made as many
line writes of the running frame as the reset waits for. -/
def resetDue (s : State) : Bool :=
  match s.host, s.tx with
  | .reset _ :: _, .idle => true
  | .reset k :: _, .sending _ n => decide (k ≤ n.val)
  | _, _ => false

/-- Micro-steps, at most `fuel` of them, until the sequencer is Idle or a reset arrives (R156, R162, R232). -/
def runFrame : Nat → State → State
  | 0, s => s
  | fuel + 1, s =>
    match s.tx with
    | .idle => s
    | .sending _ _ => if resetDue s then s else runFrame fuel (txStep s)

/-- SHOW's work up to the first line write (R150): the lazy setup with the default pins if not READY (R182), then StartFrame.
An error of the setup ends the owner's command with no line write made. -/
def beginFrame (owner : FrameOwner) (s : State) : State :=
  if s.ready then s.setTx (.sending owner 0)
  else
    match setupBody Config.defDataPin Config.defClkPin s with
    | .done s1 _ => s1.setTx (.sending owner 0)
    | .raised s1 e => finish owner (some e) s1

/-- A whole frame (R150, R151, R162), its lazy setup included. -/
def sendFrame (owner : FrameOwner) (s : State) : State := runFrame Config.frameWrites (beginFrame owner s)

/-- SHOW (R150). -/
def execShow (s : State) : Host.Outcome State Fault Refusal := taken s fun s => sendFrame .byShow s

/-- The state after the clearing step of TEARDOWN, which cannot fail (R123, R184). -/
def cleared (s : State) : State :=
  match clearBody s with
  | .done s1 _ => s1
  | .raised s1 _ => s1

/-- TEARDOWN (R184): with COE = 1 what CLEAR does and what SHOW does, then in every case the last lines. -/
def execTeardown (s : State) : Host.Outcome State Fault Refusal :=
  taken s fun s => if s.coe then sendFrame .byTeardown (cleared s) else (teardownTail none s).answer

end Sys2Proof.Machine
end

