-- ==== Sys2Proof/Machine/Dispatch.lean ====
section
/-! DEFINITION. The meaning of every command: one arm per constructor of Instr (R70). -/

namespace Sys2Proof.Machine

open Sys2Proof

def exec (i : Instr) (s : State) : Host.Outcome State Fault Refusal :=
  match i with
  | .setr k v => Sys2Proof.Machine.execSetr k v s
  | .setg k v => Sys2Proof.Machine.execSetg k v s
  | .setb k v => Sys2Proof.Machine.execSetb k v s
  | .psetbr k br => Sys2Proof.Machine.execPsetbr k br s
  | .setrgbb k r g b br => Sys2Proof.Machine.execSetrgbb k r g b br s
  | .pclr k => Sys2Proof.Machine.execPclr k s
  | .getr k => Sys2Proof.Machine.execGetr k s
  | .getg k => Sys2Proof.Machine.execGetg k s
  | .getb k => Sys2Proof.Machine.execGetb k s
  | .getbr k => Sys2Proof.Machine.execGetbr k s
  | .getbrv k => Sys2Proof.Machine.execGetbrv k s
  | .setpix k r g b => Sys2Proof.Machine.execSetpix k r g b s
  | .setpixBr k r g b br => Sys2Proof.Machine.execSetpixBr k r g b br s
  | .setpixs r g b => Sys2Proof.Machine.execSetpixs r g b s
  | .setpixsBr r g b br => Sys2Proof.Machine.execSetpixsBr r g b br s
  | .setbrt br => Sys2Proof.Machine.execSetbrt br s
  | .clear => Sys2Proof.Machine.execClear s
  | .getpix k => Sys2Proof.Machine.execGetpix k s
  | .showFrame => Sys2Proof.Machine.execShow s
  | .setup d c => Sys2Proof.Machine.execSetup d c s
  | .setcoe f => Sys2Proof.Machine.execSetcoe f s
  | .teardown => Sys2Proof.Machine.execTeardown s

end Sys2Proof.Machine
end

