-- ==== Sys2Proof/Machine/Port.lean ====
section
/-! DEFINITION. The command port and the reset input (R47, R71, R185, R207, R230, R232): what one step of the machine does.
A step is a reset, one micro-step of a running frame, or one whole command; with no input an idle block does nothing
(R231). -/

namespace Sys2Proof.Machine

open Sys2Proof

/-- A word is taken from the port (R47): a legal one runs as its command, an illegal one is answered with IllegalCommand and
changes nothing else (R71, R207). -/
def takeWord (w : CmdWord) (s : State) : Host.Outcome State Fault Refusal :=
  match decode w with
  | .ok i => exec i s
  | .error _ => taken s fun s => (Result.raised s .illegalCommand).answer

/-- The host's next input is used up. -/
def State.popHost (s : State) : State := { s with host := s.host.tail }

/-- Nothing on the port: an alive block waits and nothing changes (R231); a released one has no step (R185, U6). -/
def idleStep (s : State) : Host.Outcome State Fault Refusal :=
  match s.life with
  | .alive => .next s
  | .released => .fault .released

/-- One step of the machine. A reset goes first, in any state (R230, R232); while a frame runs its micro-step is the only
other thing that can happen (R156); else the host's next command word is taken, if the block is alive (R47, R185). -/
def portStep (s : State) : Host.Outcome State Fault Refusal :=
  if resetDue s then .next s.hostReset
  else
    match s.tx with
    | .sending _ _ => .next (txStep s)
    | .idle =>
      match s.host with
      | .command w :: _ => takeWord w s.popHost
      | _ => idleStep s

/-- The instruction whose word has the low `nbits` bits of `w` is put in front of the host's inputs, so that the next step of
an idle, alive block takes exactly it (log 5). -/
def offerWord (nbits w : Nat) (s : State) : State :=
  { s with host := .command (BitVec.ofNat 96 (w % 2 ^ nbits)) :: s.host }

end Sys2Proof.Machine
end

