-- ==== Sys2Proof/Machine/Step.lean ====
section
/-! DEFINITION. The step of the machine. -/

namespace Sys2Proof.Machine

open Sys2Proof

/-- One step of the machine. -/
def step (s : State) : Host.Outcome State Fault Refusal := portStep s

/-- The state with that instruction where `step` takes its next one. -/
def State.withFetchWord (s : State) (nbits w : Nat) : State := offerWord nbits w s

end Sys2Proof.Machine
end

