-- ==== Sys2Proof/Machine/Frame.lean ====
section
/-! DEFINITION. The frame as a list of line writes (R158) and what a list of line writes means on the lines: its bit stream
(R161), its pulses (R155), its edges (R235). -/

namespace Sys2Proof.Machine

open Sys2Proof

/-- A line write: the line and the level written to it. -/
abbrev LineWrite := Line × Bool

/-- A marker of so many clock pulses (R152, R154, R158 `SOF`, `EOF`): the data line is written 0 once, on entry (D8). -/
def markerWrites (pulses : Nat) : List LineWrite :=
  (.dat, false) :: (List.replicate pulses [(.clk, true), (.clk, false)]).flatten

/-- `BIT(x)` (R158). -/
def bitWrites (x : Bool) : List LineWrite := [(.dat, x), (.clk, true), (.clk, false)]

/-- `PIXW(p)` (R158). -/
def pixelFrame (p : Pixel) : List LineWrite := (bitsOf p).flatMap bitWrites

/-- `W` (R158): start marker, the 8 pixels in index order, end marker. -/
def frameOf (pix : Vector Pixel Config.nPixels) : List LineWrite :=
  markerWrites Config.startPulses ++ pix.toList.flatMap pixelFrame ++ markerWrites Config.endPulses

/-- The events of a list of line writes (R52, R158). -/
def setEvents (ws : List LineWrite) : List Event := ws.map fun w => .set w.1 w.2

/-- The level last written to the data line, as the walk of R161 keeps it. -/
abbrev DatLevel := Option Bool

/-- The bit stream of a list of line writes (R161), with the data level before it: at every `(CLK, 1)` the level last written
to DAT, `none` being "unknown". -/
def bitstreamFrom : DatLevel → List LineWrite → List DatLevel
  | _, [] => []
  | _, (.dat, v) :: ws => bitstreamFrom (some v) ws
  | d, (.clk, true) :: ws => d :: bitstreamFrom d ws
  | d, (.clk, false) :: ws => bitstreamFrom d ws

/-- The bit stream of R161: the walk starts with "unknown". -/
def bitstream (ws : List LineWrite) : List DatLevel := bitstreamFrom none ws

/-- The 324 bits of a frame (R62): start marker, the 8 pixel words, end marker. -/
def frameBits (pix : Vector Pixel Config.nPixels) : List Bool :=
  List.replicate Config.startPulses false ++ pix.toList.flatMap bitsOf ++ List.replicate Config.endPulses false

/-- Every clock pulse is a write of 1 followed at once by a write of 0, with nothing between (R155). -/
def wholePulses : List LineWrite → Bool
  | [] => true
  | (.dat, _) :: ws => wholePulses ws
  | (.clk, true) :: (.clk, false) :: ws => wholePulses ws
  | (.clk, _) :: _ => false

/-- The clock writes that are certainly rising edges, given the clock level before the list (R235): a write of 1 while the
level is known to be 0. -/
def sureRisingEdges : Level → List LineWrite → Nat
  | _, [] => 0
  | l, (.dat, _) :: ws => sureRisingEdges l ws
  | l, (.clk, true) :: ws => (if l = .zero then 1 else 0) + sureRisingEdges .one ws
  | _, (.clk, false) :: ws => sureRisingEdges .zero ws

end Sys2Proof.Machine
end

