-- ==== Sys2Proof/Safety.lean ====
section
/-! DEFINITION. What counts as a good state, in the terms claims use: the invariants of R12 and R30, those of a running frame,
and the premises a claim about one command may make about the host and the provider. -/

namespace Sys2Proof.Machine

open Sys2Proof

/-! ### Premises about one command -/

/-- The block takes a command (R47, R185): it is alive and no frame runs. -/
abbrev Takes (s : State) : Prop := s.life = .alive ∧ s.tx = .idle

/-- No reset cuts the frame of the command now run (R232): if the host's next input is a reset, it comes after the frame's
last line write. -/
def FrameUncut (s : State) : Prop := ∀ k rest, s.host = .reset k :: rest → Config.frameWrites ≤ k

/-- The provider's answer to the coming acquisition number `k`, the next one being number 0 (R217): from the environment's
list, and past its end a free value. -/
def answerAt (s : State) (k : Nat) : Bool :=
  s.answers.getD k (Config.freeGrant (s.draws + (k - s.answers.length)))

/-- The state with `k` answers of the provider used up. -/
def useAnswers (k : Nat) (s : State) : State :=
  { s with answers := s.answers.drop k, draws := s.draws + (k - s.answers.length) }

/-- What CLEAR makes of the pixel buffer (R123): all colours 0, every brightness kept. -/
def clearedPixels (pix : Vector Pixel Config.nPixels) : Vector Pixel Config.nPixels :=
  pix.map fun p => { p with r := 0, g := 0, b := 0 }

/-- The commands that work on the pixel buffer only (R126): those of `40_pixel_ops.md` and of `41_strip_ops.md`. -/
def isBufferCommand : Instr → Bool
  | .setr _ _ | .setg _ _ | .setb _ _ | .psetbr _ _ | .setrgbb _ _ _ _ _ | .pclr _ => true
  | .getr _ | .getg _ | .getb _ | .getbr _ | .getbrv _ => true
  | .setpix _ _ _ _ | .setpixBr _ _ _ _ _ | .setpixs _ _ _ | .setpixsBr _ _ _ _ => true
  | .setbrt _ | .clear | .getpix _ => true
  | .showFrame | .setup _ _ | .setcoe _ | .teardown => false

/-- The getters, which write no state (R107 to R111, R124). -/
def isGetter : Instr → Bool
  | .getr _ | .getg _ | .getb _ | .getbr _ | .getbrv _ | .getpix _ => true
  | .setr _ _ | .setg _ _ | .setb _ _ | .psetbr _ _ | .setrgbb _ _ _ _ _ | .pclr _ => false
  | .setpix _ _ _ _ | .setpixBr _ _ _ _ _ | .setpixs _ _ _ | .setpixsBr _ _ _ _ => false
  | .setbrt _ | .clear | .showFrame | .setup _ _ | .setcoe _ | .teardown => false

/-- The index operand of a command that has one (R66, R203). -/
def indexOperand : Instr → Option Int
  | .setr i _ | .setg i _ | .setb i _ | .psetbr i _ | .setrgbb i _ _ _ _ | .pclr i => some i
  | .getr i | .getg i | .getb i | .getbr i | .getbrv i => some i
  | .setpix i _ _ _ | .setpixBr i _ _ _ _ | .getpix i => some i
  | .setpixs _ _ _ | .setpixsBr _ _ _ _ | .setbrt _ | .clear => none
  | .showFrame | .setup _ _ | .setcoe _ | .teardown => none

/-- The colour operands of a command (R66, R201). -/
def colorOperands : Instr → List Int
  | .setr _ v | .setg _ v | .setb _ v => [v]
  | .setrgbb _ r g b _ | .setpix _ r g b | .setpixBr _ r g b _ | .setpixs r g b | .setpixsBr r g b _ => [r, g, b]
  | .psetbr _ _ | .pclr _ | .getr _ | .getg _ | .getb _ | .getbr _ | .getbrv _ => []
  | .setbrt _ | .clear | .getpix _ | .showFrame | .setup _ _ | .setcoe _ | .teardown => []

/-- The brightness operand of a command that is given one (R66, R202). -/
def brightnessOperand : Instr → Option Int
  | .psetbr _ br | .setrgbb _ _ _ _ br | .setpixBr _ _ _ _ br | .setpixsBr _ _ _ br | .setbrt br => some br
  | .setr _ _ | .setg _ _ | .setb _ _ | .pclr _ => none
  | .getr _ | .getg _ | .getb _ | .getbr _ | .getbrv _ => none
  | .setpix _ _ _ _ | .setpixs _ _ _ | .clear | .getpix _ => none
  | .showFrame | .setup _ _ | .setcoe _ | .teardown => none

/-- The five items of R71 on a word: an opcode that is none of the 20; reserved bits; `BP` on a command that has no optional
brightness; a slot the format does not use; a flag of SETCOE that is neither 0 nor 1. -/
def IllegalWord (w : CmdWord) : Prop :=
  let f := unpack w
  Opcode.ofCode f.op = none ∨
  f.rsv ≠ 0 ∨
  (f.bp = 1 ∧ f.op ≠ 0x20 ∧ f.op ≠ 0x21) ∨
  (∃ op, Opcode.ofCode f.op = some op ∧ unusedSlotsZero op.format f = false) ∨
  (f.op = 0x41 ∧ f.a ≠ 0 ∧ f.a ≠ 1)

/-! ### Invariants -/

/-- R12: every brightness is in [0, 1]. The colours are in 0..255 by their type. -/
def PixelsInRange (s : State) : Prop := ∀ i : PixelIndex, (s.pix[i].brt : Int) ≤ Config.brtMax

/-- R30 item 3: with READY = 1 the pins are numbers in 1..27 and differ. -/
def ReadyHasPins (s : State) : Prop :=
  s.ready = true → ∃ d c : Nat, s.dataPin = some d ∧ s.clkPin = some c ∧ PinOk d ∧ PinOk c ∧ d ≠ c

/-- R30 item 4: with READY = 0 there are no pins and both levels are unknown. -/
def UnreadyHasNone (s : State) : Prop :=
  s.ready = false → s.dataPin = none ∧ s.clkPin = none ∧ s.lvlDat = .x ∧ s.lvlClk = .x

/-- A frame runs only on held handles of a living block (R150, R184, R214). -/
def FrameHasHandles (s : State) : Prop :=
  ∀ owner n, s.tx = .sending owner n → s.ready = true ∧ s.life = .alive

/-- The frame of a TEARDOWN is sent with COE = 1 and all colours 0 (R184, R186). -/
def TeardownFrameDark (s : State) : Prop :=
  ∀ n, s.tx = .sending .byTeardown n →
    s.coe = true ∧ ∀ i : PixelIndex, s.pix[i].r = 0 ∧ s.pix[i].g = 0 ∧ s.pix[i].b = 0

/-- Inside a pixel EBUF holds its encoding, and inside a byte SR holds that byte shifted left by the bits already sent
(R25, R153). At a position where one of them is about to be loaded nothing is asked of it. -/
def ShiftCoherent (s : State) : Prop :=
  ∀ owner n, s.tx = .sending owner n → phaseOf n = .pixel →
    (pixelOffset n % Config.pixelWrites ≠ 0 → s.ebuf = encodePixel s.pix[pixiOf n]) ∧
    (pixelOffset n % Config.byteWrites ≠ 0 → s.sr = s.ebuf[byteiOf n] <<< bitiOf n)

/-- Between commands the two line levels are both unknown or both 0 (R24, R30 item 6, R163); in a frame the data level is 0 once
the end marker's data write has been made (R154). -/
def LineLevels (s : State) : Prop :=
  (s.tx = .idle → s.lvlDat = .x ∧ s.lvlClk = .x ∨ s.lvlDat = .zero ∧ s.lvlClk = .zero) ∧
  (∀ owner n, s.tx = .sending owner n → Config.endStart < n.val → s.lvlDat = .zero)

/-- The invariant of the machine, at every micro-step (R12, R30). -/
def Inv (s : State) : Prop :=
  PixelsInRange s ∧ ReadyHasPins s ∧ UnreadyHasNone s ∧ FrameHasHandles s ∧ TeardownFrameDark s ∧ ShiftCoherent s

end Sys2Proof.Machine
end

