-- ==== Sys2Proof/Certificates/Slice0/Obligations.lean ====
section
/-! DEFINITION. The statements for the provers, from the numbered rules of spec/. A colour operand is written `c.toNat` for a
byte `c`, a legal index `k.val` for a pixel index `k`, a legal brightness `n` for a number of thousandths up to 1000: these are
exactly the legal operands (R100, R201, R202). `{ s with … }` says that every field not named is unchanged. -/

open Sys2Proof Sys2Proof.Machine

/-! ### The command word -/

/-- R73: "encode then decode gives the term back", for every command of the table and every operand that fits. -/
def Obligations.DecodeOfEncode : Prop := ∀ i : Instr, i.WellFormed → decode (encode i) = .ok i

/-- R73: "decode then encode gives the word back", and every decoded term fits. -/
def Obligations.EncodeOfDecode : Prop := ∀ (w : CmdWord) (i : Instr), decode w = .ok i → i.WellFormed ∧ encode i = w

/-- R70: a command word is legal exactly when it matches one row of the opcode table, then only one, and it is that row's
command. -/
def Obligations.LegalWordsMatchExactlyOneRow : Prop :=
  ∀ w : CmdWord,
    ((∃ i, decode w = .ok i) ↔ ∃ r ∈ opcodeTable, r.Matches w = true) ∧
    (opcodeTable.filter fun r => r.Matches w).length ≤ 1 ∧
    ∀ r ∈ opcodeTable, r.Matches w = true → ∃ i, decode w = .ok i ∧ i.opcode = r.opcode

/-- R71, R207: the five items of R71 are the illegal words; one of them, taken from the port, changes no state, makes no GPIO
event and is answered with status IllegalCommand.
The port as the list `host` is the model's choice (log 5). -/
def Obligations.IllegalWordsAreOnlyAnswered : Prop :=
  ∀ w : CmdWord,
    (IllegalWord w ↔ ∃ e, decode w = .error e) ∧
    ∀ (s : State) (rest : List HostInput), Takes s → s.host = .command w :: rest → IllegalWord w →
      step s = .next { s with host := rest, resp := 0x07000000 }

/-- Words written out in 30_encoding section 9 and 95_test_vectors V1 decode to their commands. -/
def Obligations.SpecWordsDecode : Prop :=
  decode 0x2001000000FF0000000003E8 = .ok (.setpixBr 0 255 0 0 1000) ∧
  decode 0x2000000000FF000000000000 = .ok (.setpix 0 255 0 0) ∧
  decode 0x300000000000000000000000 = .ok .showFrame ∧
  decode 0x400000170018000000000000 = .ok (.setup 23 24) ∧
  decode 0x1000FFFF0000000000000000 = .ok (.setr (-1) 0) ∧
  decode 0x22000000000000000000FFFF = .ok (.setbrt (-1)) ∧
  decode 0x1B0000070000000000000000 = .ok (.getbr 7) ∧
  decode 0x21010000000100020003_01F4 = .ok (.setpixsBr 1 2 3 500) ∧
  decode 0x410000010000000000000000 = .ok (.setcoe true) ∧
  decode 0x420000000000000000000000 = .ok .teardown

/-! ### The step -/

/-- R47: a step of an idle, living block that is offered a legal word runs exactly its command, on the state without that
word on the port.
The port as the list `host`, and a step that takes its first word and runs the whole command, are the model's choice (log 5, 7). -/
def Obligations.StepRunsTheDecodedCommand : Prop :=
  ∀ (s : State) (w : CmdWord) (rest : List HostInput) (i : Instr),
    Takes s → s.host = .command w :: rest → decode w = .ok i → step s = exec i { s with host := rest }

/-- R231: with no command issued the block does nothing, after reset and whenever it is idle and alive.
That waiting is a step that changes nothing is the model's choice (log 5). -/
def Obligations.IdleBlockDoesNothing : Prop :=
  step State.reset = .next State.reset ∧ ∀ s : State, Takes s → s.host = [] → step s = .next s

/-- R29, R13: the values the spec gives for reset. -/
def Obligations.ResetValues : Prop :=
  (∀ k : PixelIndex, State.reset.pix[k] = { r := 0, g := 0, b := 0, brt := 200 }) ∧
  State.reset.ready = false ∧ State.reset.coe = false ∧
  State.reset.dataPin = none ∧ State.reset.clkPin = none ∧
  State.reset.life = .alive ∧ State.reset.tx = .idle ∧ State.reset.tx.phase = .idle ∧ State.reset.tx.seq = 0 ∧
  State.reset.lvlDat = .x ∧ State.reset.lvlClk = .x ∧ State.reset.trace = []

/-- R230, R232: a reset that arrives puts the whole block into the reset state at once, in any state: idle, in the middle of a
frame, released; it makes no event. The model's own fields for the environment stay (log 6). -/
def Obligations.ResetComesInAnyState : Prop :=
  ∀ (s : State) (k : Nat) (rest : List HostInput), s.host = .reset k :: rest →
    (s.tx = .idle ∨ ∃ owner n, s.tx = .sending owner n ∧ k ≤ n.val) →
    step s = .next { State.reset with host := rest, answers := s.answers, draws := s.draws }

/-- R185, R23, R47: a released block takes no command and has no step until a reset; no command is taken while a frame runs.
The two faults are the model's names for "no step" and "not taken" (log 10). -/
def Obligations.ReleasedBlockTakesNothing : Prop :=
  (∀ s : State, s.life = .released → s.tx = .idle → (∀ k rest, s.host ≠ .reset k :: rest) → step s = .fault .released) ∧
  (∀ (s : State) (i : Instr), s.life = .released → exec i s = .fault .released) ∧
  (∀ (s : State) (i : Instr) owner n, s.life = .alive → s.tx = .sending owner n → exec i s = .fault .busy)

/-! ### Commands on one pixel -/

/-- R101, R102, R103: SETR, SETG, SETB write one channel of one pixel and nothing else; a bad index is reported first, then a
bad colour, and then nothing is written. -/
def Obligations.ColourSettersWriteOneChannel : Prop :=
  ∀ s : State, Takes s →
    (∀ (k : PixelIndex) (c : Byte),
      exec (.setr k.val c.toNat) s = .next { s with pix := s.pix.set k { s.pix[k] with r := c }, resp := 0 } ∧
      exec (.setg k.val c.toNat) s = .next { s with pix := s.pix.set k { s.pix[k] with g := c }, resp := 0 } ∧
      exec (.setb k.val c.toNat) s = .next { s with pix := s.pix.set k { s.pix[k] with b := c }, resp := 0 }) ∧
    (∀ i v : Int, ¬ (0 ≤ i ∧ i ≤ 7) →
      exec (.setr i v) s = .next { s with resp := 0x03000000 } ∧
      exec (.setg i v) s = .next { s with resp := 0x03000000 } ∧
      exec (.setb i v) s = .next { s with resp := 0x03000000 }) ∧
    (∀ i v : Int, 0 ≤ i ∧ i ≤ 7 → ¬ (0 ≤ v ∧ v ≤ 255) →
      exec (.setr i v) s = .next { s with resp := 0x01000000 } ∧
      exec (.setg i v) s = .next { s with resp := 0x01000000 } ∧
      exec (.setb i v) s = .next { s with resp := 0x01000000 })

/-- R104: PSETBR stores the brightness itself; errors in the order index, brightness, and then nothing is written. -/
def Obligations.PsetbrWritesBrightness : Prop :=
  ∀ s : State, Takes s →
    (∀ (k : PixelIndex) (n : Nat), n ≤ 1000 →
      exec (.psetbr k.val n) s = .next { s with pix := s.pix.set k { s.pix[k] with brt := n }, resp := 0 }) ∧
    (∀ i br : Int, ¬ (0 ≤ i ∧ i ≤ 7) → exec (.psetbr i br) s = .next { s with resp := 0x03000000 }) ∧
    (∀ i br : Int, 0 ≤ i ∧ i ≤ 7 → ¬ (0 ≤ br ∧ br ≤ 1000) →
      exec (.psetbr i br) s = .next { s with resp := 0x02000000 })

/-- R105: SETRGBB replaces the whole record or changes nothing; errors in the order index, colours, brightness. -/
def Obligations.SetrgbbIsAllOrNothing : Prop :=
  ∀ s : State, Takes s →
    (∀ (k : PixelIndex) (r g b : Byte) (n : Nat), n ≤ 1000 →
      exec (.setrgbb k.val r.toNat g.toNat b.toNat n) s =
        .next { s with pix := s.pix.set k { r := r, g := g, b := b, brt := n }, resp := 0 }) ∧
    (∀ i r g b br : Int, ¬ (0 ≤ i ∧ i ≤ 7) → exec (.setrgbb i r g b br) s = .next { s with resp := 0x03000000 }) ∧
    (∀ i r g b br : Int, 0 ≤ i ∧ i ≤ 7 →
      ¬ ((0 ≤ r ∧ r ≤ 255) ∧ (0 ≤ g ∧ g ≤ 255) ∧ (0 ≤ b ∧ b ≤ 255)) →
      exec (.setrgbb i r g b br) s = .next { s with resp := 0x01000000 }) ∧
    (∀ i r g b br : Int, 0 ≤ i ∧ i ≤ 7 → (0 ≤ r ∧ r ≤ 255) ∧ (0 ≤ g ∧ g ≤ 255) ∧ (0 ≤ b ∧ b ≤ 255) →
      ¬ (0 ≤ br ∧ br ≤ 1000) → exec (.setrgbb i r g b br) s = .next { s with resp := 0x02000000 })

/-- R106: PCLR zeroes the three channels of one pixel and keeps its brightness; a cleared pixel's word is
`0xE0000000 | (enc5 << 24)`. -/
def Obligations.PclrKeepsBrightness : Prop :=
  (∀ s : State, Takes s →
    (∀ k : PixelIndex, exec (.pclr k.val) s =
      .next { s with pix := s.pix.set k { r := 0, g := 0, b := 0, brt := s.pix[k].brt }, resp := 0 }) ∧
    (∀ i : Int, ¬ (0 ≤ i ∧ i ≤ 7) → exec (.pclr i) s = .next { s with resp := 0x03000000 })) ∧
  (∀ n : Nat, pixelWord { r := 0, g := 0, b := 0, brt := n } = 0xE0000000 ||| ((enc5 n).setWidth 32 <<< 24))

/-- R107 to R111: each getter of a pixel answers with its field and changes nothing but the response; a bad index is
reported. In a pixel in range GETBRV answers the integer n of the brightness n / 1000 itself. -/
def Obligations.GettersAnswerTheField : Prop :=
  ∀ s : State, Takes s →
    (∀ k : PixelIndex,
      exec (.getr k.val) s = .next { s with resp := s.pix[k].r.setWidth 32 } ∧
      exec (.getg k.val) s = .next { s with resp := s.pix[k].g.setWidth 32 } ∧
      exec (.getb k.val) s = .next { s with resp := s.pix[k].b.setWidth 32 } ∧
      exec (.getbr k.val) s = .next { s with resp := (enc5 s.pix[k].brt).setWidth 32 } ∧
      (s.pix[k].brt ≤ 1000 → exec (.getbrv k.val) s = .next { s with resp := BitVec.ofNat 32 s.pix[k].brt })) ∧
    (∀ i : Int, ¬ (0 ≤ i ∧ i ≤ 7) →
      exec (.getr i) s = .next { s with resp := 0x03000000 } ∧
      exec (.getg i) s = .next { s with resp := 0x03000000 } ∧
      exec (.getb i) s = .next { s with resp := 0x03000000 } ∧
      exec (.getbr i) s = .next { s with resp := 0x03000000 } ∧
      exec (.getbrv i) s = .next { s with resp := 0x03000000 })

/-- R15: reading a pixel field has no side effect: it changes nothing but the response. Two reads with no write between them
return the same value: the response is the same on any two states that take a command and have the same pixel buffer, so
whatever ran between the two reads, and a read made again at once changes nothing more. -/
def Obligations.ReadingHasNoSideEffect : Prop :=
  ∀ i : Instr, isGetter i = true →
    (∀ s : State, Takes s → ∃ t, exec i s = .next t ∧ { t with resp := s.resp } = s ∧ exec i t = .next t) ∧
    (∀ s u : State, Takes s → Takes u → s.pix = u.pix →
      ∃ t v, exec i s = .next t ∧ exec i u = .next v ∧ t.resp = v.resp)

/-- R100, R203: an index operand out of 0..7 makes any command that has one answer InvalidPixelIndex whatever its other
operands are, with nothing written; a command without an index operand never answers it. -/
def Obligations.IndexIsTestedFirst : Prop :=
  (∀ (i : Instr) (x : Int) (s : State), Takes s → indexOperand i = some x → ¬ (0 ≤ x ∧ x ≤ 7) →
    exec i s = .next { s with resp := 0x03000000 }) ∧
  (∀ (i : Instr) (s t : State), indexOperand i = none → exec i s = .next t → t.tx = .idle → respStatus t.resp ≠ 3)

/-- R201: a colour operand out of 0..255 makes any command that has one answer InvalidColorValue, once its index has passed,
with every pixel as it was. -/
def Obligations.ColourOutOfRangeChangesNothing : Prop :=
  ∀ (i : Instr) (s : State), Takes s → (∀ x, indexOperand i = some x → 0 ≤ x ∧ x ≤ 7) →
    (∃ v ∈ colorOperands i, v < 0 ∨ v > 255) → exec i s = .next { s with resp := 0x01000000 }

/-- R202: a brightness operand out of [0, 1] makes any command that is given one answer InvalidBrightnessLevel, once its index
and its colours have passed, with every pixel as it was. A command that has ended answers it in that case only: not with the
brightness omitted, nor with one in range, nor when its index or a colour has failed first, nor without such an operand. -/
def Obligations.BrightnessOutOfRangeChangesNothing : Prop :=
  (∀ (i : Instr) (n : Int) (s : State), Takes s → (∀ x, indexOperand i = some x → 0 ≤ x ∧ x ≤ 7) →
    (∀ v ∈ colorOperands i, 0 ≤ v ∧ v ≤ 255) → brightnessOperand i = some n → (n < 0 ∨ n > 1000) →
    exec i s = .next { s with resp := 0x02000000 }) ∧
  (∀ (i : Instr) (s t : State), exec i s = .next t → t.tx = .idle → respStatus t.resp = 2 →
    (∃ n, brightnessOperand i = some n ∧ (n < 0 ∨ n > 1000)) ∧ (∀ x, indexOperand i = some x → 0 ≤ x ∧ x ≤ 7) ∧
    (∀ v ∈ colorOperands i, 0 ≤ v ∧ v ≤ 255))

/-! ### Commands on the strip -/

/-- R120, R69: SETPIX writes the colours of one pixel, and its brightness if one is given, and nothing else. -/
def Obligations.SetpixWritesOnePixel : Prop :=
  ∀ s : State, Takes s →
    (∀ (k : PixelIndex) (r g b : Byte),
      exec (.setpix k.val r.toNat g.toNat b.toNat) s =
        .next { s with pix := s.pix.set k { r := r, g := g, b := b, brt := s.pix[k].brt }, resp := 0 }) ∧
    (∀ (k : PixelIndex) (r g b : Byte) (n : Nat), n ≤ 1000 →
      exec (.setpixBr k.val r.toNat g.toNat b.toNat n) s =
        .next { s with pix := s.pix.set k { r := r, g := g, b := b, brt := n }, resp := 0 })

/-- 95_test_vectors S1 (R107 to R111, R120): what SETPIX wrote is what the getters of that pixel then answer. -/
def Obligations.SetpixReadsBack : Prop :=
  ∀ (s : State) (k : PixelIndex) (r g b : Byte) (n : Nat), Takes s → n ≤ 1000 →
    ∃ t, exec (.setpixBr k.val r.toNat g.toNat b.toNat n) s = .next t ∧
      exec (.getr k.val) t = .next { t with resp := r.setWidth 32 } ∧
      exec (.getg k.val) t = .next { t with resp := g.setWidth 32 } ∧
      exec (.getb k.val) t = .next { t with resp := b.setWidth 32 } ∧
      exec (.getbr k.val) t = .next { t with resp := BitVec.ofNat 32 (31 * n / 1000) } ∧
      exec (.getbrv k.val) t = .next { t with resp := BitVec.ofNat 32 n }

/-- R121: SETPIXS writes the same colours, and the brightness if one is given, to every pixel; without one every pixel keeps
its own. -/
def Obligations.SetpixsWritesEveryPixel : Prop :=
  ∀ (s : State) (r g b : Byte), Takes s →
    exec (.setpixs r.toNat g.toNat b.toNat) s =
      .next { s with pix := s.pix.map fun p => { r := r, g := g, b := b, brt := p.brt }, resp := 0 } ∧
    ∀ n : Nat, n ≤ 1000 → exec (.setpixsBr r.toNat g.toNat b.toNat n) s =
      .next { s with pix := Vector.replicate 8 { r := r, g := g, b := b, brt := n }, resp := 0 }

/-- R125: SETPIXS changes all 8 pixels or none, for every operand: if record 0 passes all are written, if it fails none is. -/
def Obligations.SetpixsChangesAllOrNone : Prop :=
  ∀ (s : State) (r g b : Int) (br : Option Int), Takes s →
    let i : Instr := match br with
      | some n => .setpixsBr r g b n
      | none => .setpixs r g b
    let first : Instr := match br with
      | some n => .setpixBr 0 r g b n
      | none => .setpix 0 r g b
    ∃ t t0, exec i s = .next t ∧ exec first s = .next t0 ∧ t.resp = t0.resp ∧
      ((t.resp ≠ 0 ∧ t.pix = s.pix) ∨
       (t.resp = 0 ∧ ∀ k : PixelIndex,
          (t.pix[k].r.toNat : Int) = r ∧ (t.pix[k].g.toNat : Int) = g ∧ (t.pix[k].b.toNat : Int) = b ∧
          (t.pix[k].brt : Int) = br.getD s.pix[k].brt))

/-- R122: SETBRT writes the brightness of every pixel and touches no colour; out of range it changes no pixel. -/
def Obligations.SetbrtWritesEveryPixel : Prop :=
  ∀ s : State, Takes s →
    (∀ n : Nat, n ≤ 1000 →
      exec (.setbrt n) s = .next { s with pix := s.pix.map fun p => { p with brt := n }, resp := 0 }) ∧
    (∀ br : Int, ¬ (0 ≤ br ∧ br ≤ 1000) → exec (.setbrt br) s = .next { s with resp := 0x02000000 })

/-- R123: CLEAR zeroes the colours of every pixel, leaves each brightness untouched, and cannot fail. -/
def Obligations.ClearKeepsEveryBrightness : Prop :=
  ∀ s : State, Takes s → ∃ t, exec .clear s = .next t ∧ t.resp = 0 ∧ { t with pix := s.pix, resp := s.resp } = s ∧
    ∀ k : PixelIndex, t.pix[k] = { r := 0, g := 0, b := 0, brt := s.pix[k].brt }

/-- R124: GETPIX answers the index of the pixel, its handle; out of range it fails; nothing is written. -/
def Obligations.GetpixAnswersTheIndex : Prop :=
  ∀ s : State, Takes s →
    (∀ k : PixelIndex, exec (.getpix k.val) s = .next { s with resp := BitVec.ofNat 32 k.val }) ∧
    (∀ i : Int, ¬ (0 ≤ i ∧ i ≤ 7) → exec (.getpix i) s = .next { s with resp := 0x03000000 })

/-- R126: the buffer commands work on the buffer only: whatever their operands are they end, and nothing but the pixel buffer
and the response has changed. They do not test READY: on two states that take a command and have the same pixel buffer,
whatever READY and every other field are, they leave the same pixels and give the same response. -/
def Obligations.BufferCommandsWorkOnTheBufferOnly : Prop :=
  ∀ i : Instr, isBufferCommand i = true →
    (∀ s : State, Takes s → ∃ t, exec i s = .next t ∧ { t with pix := s.pix, resp := s.resp } = s) ∧
    (∀ s u : State, Takes s → Takes u → s.pix = u.pix →
      ∃ t v, exec i s = .next t ∧ exec i u = .next v ∧ t.pix = v.pix ∧ t.resp = v.resp)

/-! ### The encoder -/

/-- R140, R146: the encoded brightness is `floor(31 × n / 1000)`, in 0..31, and it is code `k` exactly from
`k / 31` up to `(k + 1) / 31`; full code 31 is reached only at 1.0. -/
def Obligations.EncodedBrightnessIsTheFloor : Prop :=
  ∀ n : Nat, n ≤ 1000 →
    (enc5 n).toNat = 31 * n / 1000 ∧
    (∀ k : Nat, (enc5 n).toNat = k ↔ 1000 * k ≤ 31 * n ∧ 31 * n < 1000 * (k + 1)) ∧
    ((enc5 n).toNat = 31 ↔ n = 1000)

/-- R141: the header byte is `0xE0 | enc5`: its top three bits are always 1, the low five are the encoded brightness, and the
OR equals the sum; it lies in 0xE0..0xFF. -/
def Obligations.HeaderByteIsPrefixAndBrightness : Prop :=
  ∀ n : Nat,
    header n = 0xE0 ||| (enc5 n).setWidth 8 ∧
    (header n).extractLsb' 5 3 = 7 ∧ (header n).extractLsb' 0 5 = enc5 n ∧
    (header n).toNat = 0xE0 + (enc5 n).toNat ∧ 0xE0 ≤ (header n).toNat ∧ (header n).toNat ≤ 0xFF

/-- R61: the layout of the pixel word, with the two words the rule gives. -/
def Obligations.PixelWordLayout : Prop :=
  (∀ p : Pixel,
    (pixelWord p).extractLsb' 29 3 = 7 ∧ (pixelWord p).extractLsb' 24 5 = enc5 p.brt ∧
    (pixelWord p).extractLsb' 16 8 = p.b ∧ (pixelWord p).extractLsb' 8 8 = p.g ∧ (pixelWord p).extractLsb' 0 8 = p.r ∧
    bitsOf p = (List.range 32).map fun j => (pixelWord p).getLsbD (31 - j)) ∧
  pixelWord { r := 255, g := 0, b := 0, brt := 1000 } = 0xFF0000FF ∧ pixelWord defaultPixel = 0xE6000000

/-! ### The frame -/

/-- R158, R161, R62: the bit stream of a frame's line writes is 32 zeros, the 8 pixel words most significant bit first, 36
zeros: 324 bits, and "unknown" is never emitted. -/
def Obligations.FrameBitStream : Prop :=
  ∀ pix : Vector Pixel Config.nPixels,
    bitstream (frameOf pix) =
      (List.replicate 32 false ++ (pix.toList.flatMap fun p => (List.range 32).map fun j => (pixelWord p).getLsbD (31 - j)) ++
        List.replicate 36 false).map some ∧
    (bitstream (frameOf pix)).length = 324

/-- R159: the counts of a frame do not depend on the buffer: 906 line writes, 648 on the clock line (324 of them of 1), 258 on
the data line. -/
def Obligations.FrameCounts : Prop :=
  ∀ pix : Vector Pixel Config.nPixels,
    (frameOf pix).length = 906 ∧
    ((frameOf pix).filter fun w => w.1 = .clk).length = 648 ∧
    ((frameOf pix).filter fun w => w.1 = .dat).length = 258 ∧
    ((frameOf pix).filter fun w => w = (.clk, true)).length = 324 ∧
    (bitstream (frameOf pix)).length = 324

/-- R63, R64, R152, R154: a frame starts with 32 clock pulses and ends with 36 clock pulses, the data line written 0 on entry
to each marker and not again in it. -/
def Obligations.MarkersHoldTheDataLineAtZero : Prop :=
  ∀ pix : Vector Pixel Config.nPixels,
    (frameOf pix).take 65 = (.dat, false) :: (List.replicate 32 [(Line.clk, true), (Line.clk, false)]).flatten ∧
    (frameOf pix).drop 833 = (.dat, false) :: (List.replicate 36 [(Line.clk, true), (Line.clk, false)]).flatten

/-- R155: every clock pulse of a frame is a write of 1 followed at once by a write of 0, so no data-line write falls between
the two. -/
def Obligations.FramePulsesAreWhole : Prop :=
  ∀ pix : Vector Pixel Config.nPixels, wholePulses (frameOf pix) = true

/-- R235, R163: with the clock level unknown before it, a frame makes 323 clock writes that are certainly rising edges; with
the clock at 0, which every complete frame leaves, all 324 are. -/
def Obligations.FrameRisingEdges : Prop :=
  ∀ pix : Vector Pixel Config.nPixels,
    sureRisingEdges .x (frameOf pix) = 323 ∧ sureRisingEdges .one (frameOf pix) = 323 ∧
    sureRisingEdges .zero (frameOf pix) = 324

/-- R156: while a frame runs and no reset arrives, a step makes exactly the line write of its position in the frame of R158
and moves the position by one; the pixel buffer stays and EBUF and SR are again as the position needs them. The last write
leads to Idle and the command answers 0; a TEARDOWN's life ends, and the releases of the handles it holds follow the write, data
first (R184).
That a state in a frame makes its micro-step as the machine's step, that the step of the last write also ends the command, and
when EBUF and SR are loaded, are the model's choice (log 7, 9). -/
def Obligations.MicroStepMakesOneLineWrite : Prop :=
  ∀ (s : State) (owner : FrameOwner) (n : Fin Config.frameWrites),
    s.tx = .sending owner n → ShiftCoherent s → resetDue s = false →
    ∃ (t : State) (w : LineWrite), step s = .next t ∧ (frameOf s.pix)[n.val]? = some w ∧ t.pix = s.pix ∧ ShiftCoherent t ∧
      (w.1 = .dat → t.lvlDat = Level.ofBit w.2 ∧ t.lvlClk = s.lvlClk) ∧
      (w.1 = .clk → t.lvlClk = Level.ofBit w.2 ∧ t.lvlDat = s.lvlDat) ∧
      (n.val < 905 → t.trace = s.trace ++ [.set w.1 w.2] ∧ t.tx.seq = n.val + 1 ∧ ∃ m, t.tx = .sending owner m) ∧
      (n.val = 905 → t.tx = .idle ∧ t.resp = 0 ∧
        (owner = .byShow → t.trace = s.trace ++ [.set w.1 w.2]) ∧
        (owner = .byTeardown → t.life = .released ∧
          ∀ d c : Nat, s.ready = true → s.dataPin = some d → s.clkPin = some c →
            t.trace = s.trace ++ [.set w.1 w.2, .rel d, .rel c]))

/-- R160: from the first position of a frame, with no reset coming, exactly 906 steps lead to Idle; the line writes they make
are those of R158's list in order, and for a TEARDOWN's frame its releases follow (R184); the pixel buffer is unchanged
throughout; no shorter run reaches Idle.
That a state in a frame makes its micro-step as the machine's step, and when a reset cuts a frame (`FrameUncut`), are the
model's choice (log 7, 6). -/
def Obligations.BigStepAndMicroStepsAgree : Prop :=
  ∀ (s : State) (owner : FrameOwner), s.tx = .sending owner 0 → FrameUncut s →
    (∃ (t : State) (rels : List Event), core.run 906 s = .next t ∧ t.tx = .idle ∧ t.tx.seq = 0 ∧
      t.trace = s.trace ++ setEvents (frameOf s.pix) ++ rels ∧ (owner = .byShow → rels = []) ∧
      (∀ e ∈ rels, ∃ n, e = Event.rel n) ∧ t.pix = s.pix) ∧
    (∀ m < 906, ∃ u : State, core.run m s = .next u ∧ u.tx = .sending owner (Fin.ofNat Config.frameWrites m) ∧ u.pix = s.pix ∧
      u.trace = s.trace ++ setEvents ((frameOf s.pix).take m))

/-- R162, R246, R156: a frame, once started, always ends: from position `n` of any frame, with no reset coming, `906 - n` steps,
of one line write each, lead to Idle.
That a state in a frame makes its micro-step as the machine's step, and when a reset cuts a frame (`FrameUncut`), are the
model's choice (log 7, 6). -/
def Obligations.EveryFrameEnds : Prop :=
  ∀ (s : State) (owner : FrameOwner) (n : Fin Config.frameWrites), s.tx = .sending owner n → FrameUncut s →
    ∃ t : State, core.run (906 - n.val) s = .next t ∧ t.tx = .idle

/-! ### SHOW -/

/-- R150, R158, R163: SHOW on a ready block, with no reset cutting its frame, sends exactly one whole frame of the current buffer
and nothing else, and leaves both lines at 0; it cannot fail. EBUF and SR are dead afterwards (R25).
When a reset cuts a frame (`FrameUncut`) is the model's choice (log 6). -/
def Obligations.ShowSendsTheFrame : Prop :=
  ∀ s : State, Takes s → s.ready = true → FrameUncut s →
    ∃ t, exec .showFrame s = .next t ∧ t.trace = s.trace ++ setEvents (frameOf s.pix) ∧ t.resp = 0 ∧ t.tx = .idle ∧
      t.lvlDat = .zero ∧ t.lvlClk = .zero ∧ t.pix = s.pix ∧ t.ready = true ∧ t.coe = s.coe ∧ t.dataPin = s.dataPin ∧
      t.clkPin = s.clkPin ∧ t.life = s.life ∧ t.host = s.host ∧ t.answers = s.answers

/-- R150, R182: SHOW on a block that is not ready, with no reset cutting its frame, first does what `SETUP 23, 24` does: it
acquires 23 then 24 and sends the frame if both are granted; if one is refused it answers GpioAcquireFailed, no line write is
made and READY stays 0.
How the provider's answers are supplied (`answerAt`, `useAnswers`) and when a reset cuts a frame (`FrameUncut`) are the model's
choice (log 4, 6). -/
def Obligations.ShowSetsUpLazily : Prop :=
  ∀ s : State, Takes s → s.ready = false → FrameUncut s →
    ∃ t, exec .showFrame s = .next t ∧ t.tx = .idle ∧ t.pix = s.pix ∧ t.coe = s.coe ∧ t.life = s.life ∧ t.host = s.host ∧
      (answerAt s 0 = true → answerAt s 1 = true →
        t.trace = s.trace ++ [.acq 23, .acq 24] ++ setEvents (frameOf s.pix) ∧ t.resp = 0 ∧ t.ready = true ∧
        t.dataPin = some 23 ∧ t.clkPin = some 24 ∧ t.lvlDat = .zero ∧ t.lvlClk = .zero) ∧
      (answerAt s 0 = true → answerAt s 1 = false →
        t = { useAnswers 2 s with traceRev := .acq 24 :: .acq 23 :: s.traceRev, resp := 0x05000000 }) ∧
      (answerAt s 0 = false →
        t = { useAnswers 1 s with traceRev := .acq 23 :: s.traceRev, resp := 0x05000000 })

/-- R144, R151, R158, R159: what a SHOW that no reset cuts puts on the lines depends on the pixel buffer and on nothing else: two
ready blocks with the same buffer, neither frame cut by a reset, make the same 906 events, whatever else of the two states
differs.
When a reset cuts a frame (`FrameUncut`) is the model's choice (log 6). -/
def Obligations.ShowDependsOnThePixelsOnly : Prop :=
  ∀ s u s' u' : State, s.pix = u.pix → s.ready = true → u.ready = true → FrameUncut s → FrameUncut u →
    exec .showFrame s = .next s' → exec .showFrame u = .next u' →
    ∃ es, s'.trace = s.trace ++ es ∧ u'.trace = u.trace ++ es ∧ es.length = 906

/-! ### The lifecycle commands -/

/-- R180, R181: SETUP with two legal, different pins that the provider grants acquires data then clock, assigns both pins,
makes both levels unknown and sets READY, whether or not the block was ready; no handle is released and no line written.
How the provider's answers are supplied (`answerAt`, `useAnswers`) is the model's choice (log 4). -/
def Obligations.SetupAssignsThePins : Prop :=
  ∀ (s : State) (d c : Nat), Takes s → 1 ≤ d ∧ d ≤ 27 → 1 ≤ c ∧ c ≤ 27 → d ≠ c →
    answerAt s 0 = true → answerAt s 1 = true →
    exec (.setup d c) s = .next { useAnswers 2 s with
      traceRev := .acq c :: .acq d :: s.traceRev, dataPin := some d, clkPin := some c, lvlDat := .x, lvlClk := .x,
      ready := true, resp := 0 }

/-- R204: SETUP with either pin out of 1..27, or with equal pins, answers InvalidGpioPin; no provider call is made and nothing
else changes. -/
def Obligations.SetupRejectsBadPins : Prop :=
  ∀ (s : State) (d c : Int), Takes s → ¬ (1 ≤ d ∧ d ≤ 27) ∨ ¬ (1 ≤ c ∧ c ≤ 27) ∨ d = c →
    exec (.setup d c) s = .next { s with resp := 0x04000000 }

/-- R180, R205: when the provider refuses a pin, SETUP answers GpioAcquireFailed and changes no register; the trace has the
one or two `ACQ` events.
How the provider's answers are supplied (`answerAt`, `useAnswers`) is the model's choice (log 4). -/
def Obligations.SetupRefusedChangesNoRegister : Prop :=
  ∀ (s : State) (d c : Nat), Takes s → 1 ≤ d ∧ d ≤ 27 → 1 ≤ c ∧ c ≤ 27 → d ≠ c →
    (answerAt s 0 = false →
      exec (.setup d c) s =
        .next { useAnswers 1 s with traceRev := .acq d :: s.traceRev, resp := 0x05000000 }) ∧
    (answerAt s 0 = true → answerAt s 1 = false →
      exec (.setup d c) s =
        .next { useAnswers 2 s with traceRev := .acq c :: .acq d :: s.traceRev, resp := 0x05000000 })

/-- R183: SETCOE writes COE and nothing else; it makes no event and cannot fail. -/
def Obligations.SetcoeWritesTheFlagOnly : Prop :=
  ∀ (s : State) (f : Bool), Takes s → exec (.setcoe f) s = .next { s with coe := f, resp := 0 }

/-- R186, first two rows: with COE = 0 TEARDOWN sends no frame and does not clear the buffer; it releases the two handles if
the block is ready, and ends the block's life. -/
def Obligations.TeardownWithoutClearOnExit : Prop :=
  ∀ s : State, Takes s → s.coe = false →
    (s.ready = false → exec .teardown s = .next { s with life := .released, resp := 0 }) ∧
    (∀ d c : Nat, s.ready = true → s.dataPin = some d → s.clkPin = some c →
      exec .teardown s =
        .next { s with traceRev := .rel c :: .rel d :: s.traceRev, life := .released, resp := 0 })

/-- R184, R186, last three rows: with COE = 1, and no reset cutting its frame, TEARDOWN clears the buffer (colours 0, brightness kept), sends exactly one frame
of it, setting up lazily if need be, and releases the two handles; a refused acquisition leaves the buffer cleared, with no line
write and no release; in every case the block's life ends. Each pixel word of that frame is `0xE0000000 | (enc5 << 24)`.
How the provider's answers are supplied (`answerAt`) and when a reset cuts a frame (`FrameUncut`) are the model's choice
(log 4, 6). -/
def Obligations.TeardownWithClearOnExit : Prop :=
  (∀ s : State, Takes s → s.coe = true → FrameUncut s →
    ∃ t, exec .teardown s = .next t ∧ t.life = .released ∧ t.tx = .idle ∧ t.coe = true ∧ t.host = s.host ∧
      t.pix = clearedPixels s.pix ∧
      (∀ d c : Nat, s.ready = true → s.dataPin = some d → s.clkPin = some c →
        t.trace = s.trace ++ setEvents (frameOf (clearedPixels s.pix)) ++ [Event.rel d, Event.rel c] ∧ t.resp = 0 ∧
        t.lvlDat = .zero ∧ t.lvlClk = .zero ∧ t.ready = true ∧ t.dataPin = some d ∧ t.clkPin = some c) ∧
      (s.ready = false → answerAt s 0 = true → answerAt s 1 = true →
        t.trace = s.trace ++ [Event.acq 23, Event.acq 24] ++ setEvents (frameOf (clearedPixels s.pix)) ++
          [Event.rel 23, Event.rel 24] ∧
        t.resp = 0 ∧ t.ready = true ∧ t.dataPin = some 23 ∧ t.clkPin = some 24 ∧ t.lvlDat = .zero ∧ t.lvlClk = .zero) ∧
      (s.ready = false → answerAt s 0 = true → answerAt s 1 = false →
        t.trace = s.trace ++ [Event.acq 23, Event.acq 24] ∧ t.resp = 0x05000000 ∧ t.ready = false ∧ t.dataPin = s.dataPin ∧
        t.clkPin = s.clkPin ∧ t.lvlDat = s.lvlDat ∧ t.lvlClk = s.lvlClk) ∧
      (s.ready = false → answerAt s 0 = false →
        t.trace = s.trace ++ [Event.acq 23] ∧ t.resp = 0x05000000 ∧ t.ready = false ∧ t.dataPin = s.dataPin ∧
        t.clkPin = s.clkPin ∧ t.lvlDat = s.lvlDat ∧ t.lvlClk = s.lvlClk)) ∧
  (∀ (pix : Vector Pixel Config.nPixels) (k : PixelIndex),
    pixelWord (clearedPixels pix)[k] = 0xE0000000 ||| ((enc5 pix[k].brt).setWidth 32 <<< 24))

/-! ### Whole-machine rules -/

/-- R12, R30: the invariants hold at reset. -/
def Obligations.ResetMeetsTheInvariant : Prop := Inv State.reset

/-- R12, R30: every step of the machine keeps the invariants, at every micro-step of a frame too: pixels in range, READY = 1
exactly with two distinct legal pins, READY = 0 with none and unknown levels, frames only on held handles, TEARDOWN's frame
dark, EBUF and SR as the position needs them.
The clauses on a running frame rest on the model's split of a command into micro-steps (log 7, 9). -/
def Obligations.EveryStepKeepsTheInvariant : Prop := ∀ s t : State, Inv s → step s = .next t → Inv t

/-- R24, R163: at reset and, kept by every step, between commands both line levels are unknown or both are 0; in a frame the data
level is 0 from the end marker's data write on. The clause on a running frame rests on the model's split of a command into
micro-steps (log 7). -/
def Obligations.LevelsBetweenCommands : Prop :=
  LineLevels State.reset ∧ ∀ s t : State, LineLevels s → step s = .next t → LineLevels t

/-- R20, R30 item 5: no step but a reset sets READY back to 0. -/
def Obligations.ReadyIsNeverCleared : Prop :=
  ∀ s t : State, step s = .next t → resetDue s = false → s.ready = true → t.ready = true

/-- R21: COE is written only by SETCOE: no other command changes it, and no micro-step does.
That a state in a frame makes its micro-step as the machine's step is the model's choice (log 7). -/
def Obligations.OnlySetcoeWritesCoe : Prop :=
  (∀ (i : Instr) (s t : State), exec i s = .next t → (∀ f, i ≠ .setcoe f) → t.coe = s.coe) ∧
  (∀ (s t : State) owner n, s.tx = .sending owner n → resetDue s = false → step s = .next t → t.coe = s.coe)

/-- R22: the pin registers are written only by a successful SETUP, explicit or lazy: no command but SETUP, SHOW and TEARDOWN
changes them, those two only on a block that was not ready, and a SETUP that answers an error leaves them; a micro-step of a
frame leaves them.
That a state in a frame makes its micro-step as the machine's step is the model's choice (log 7). -/
def Obligations.OnlySetupWritesThePins : Prop :=
  (∀ (i : Instr) (s t : State), exec i s = .next t → (t.dataPin ≠ s.dataPin ∨ t.clkPin ≠ s.clkPin) →
    t.ready = true ∧
    ((∃ d c : Nat, i = .setup d c ∧ t.dataPin = some d ∧ t.clkPin = some c ∧ t.resp = 0) ∨
     ((i = .showFrame ∨ i = .teardown ∧ s.coe = true) ∧ s.ready = false ∧ t.dataPin = some 23 ∧ t.clkPin = some 24))) ∧
  (∀ (s t : State) owner n, s.tx = .sending owner n → resetDue s = false → step s = .next t →
    t.dataPin = s.dataPin ∧ t.clkPin = s.clkPin)

/-- R14: no command writes a brightness but those given one (PSETBR, SETRGBB, SETPIX and SETPIXS with a brightness, SETBRT), and
no command writes a colour but the setters, the clearing commands and TEARDOWN with COE = 1; SHOW writes neither. -/
def Obligations.WhichCommandWritesWhichField : Prop :=
  ∀ (i : Instr) (s t : State), exec i s = .next t →
    (brightnessOperand i = none → ∀ k : PixelIndex, t.pix[k].brt = s.pix[k].brt) ∧
    (colorOperands i = [] → (∀ x, i ≠ .pclr x) → i ≠ .clear → ¬ (i = .teardown ∧ s.coe = true) →
      ∀ k : PixelIndex, t.pix[k].r = s.pix[k].r ∧ t.pix[k].g = s.pix[k].g ∧ t.pix[k].b = s.pix[k].b)

/-- R23: LIFE is set to RELEASED by TEARDOWN and by nothing else: no other command ends the life, and no micro-step does but the
last one of a TEARDOWN's frame.
That a state in a frame makes its micro-step as the machine's step is the model's choice (log 7). -/
def Obligations.OnlyTeardownEndsTheLife : Prop :=
  (∀ (i : Instr) (s t : State), exec i s = .next t → i ≠ .teardown → t.life = .alive) ∧
  (∀ (s t : State) (owner : FrameOwner) (n : Fin Config.frameWrites),
    s.tx = .sending owner n → resetDue s = false → step s = .next t → owner = .byShow ∨ n.val < 905 → t.life = s.life)

/-- R52: the trace only grows, and which command makes which events: SETUP, SHOW and TEARDOWN acquire, SHOW and TEARDOWN write
the lines, TEARDOWN alone releases. -/
def Obligations.TraceOnlyGrows : Prop :=
  ∀ (i : Instr) (s t : State), exec i s = .next t →
    ∃ es, t.trace = s.trace ++ es ∧
      (∀ n, Event.acq n ∈ es → (∃ d c, i = .setup d c) ∨ i = .showFrame ∨ i = .teardown) ∧
      (∀ l v, Event.set l v ∈ es → i = .showFrame ∨ i = .teardown) ∧
      (∀ n, Event.rel n ∈ es → i = .teardown)

/-- R200, R206, R210, R72: every command that has ended has answered a status of R200's table; bits 23:16 are 0; an error
carries the value 0; GpioWriteFailed and, from a decoded command, IllegalCommand are never produced. -/
def Obligations.ErrorsCarryNoValue : Prop :=
  ∀ (i : Instr) (s t : State), exec i s = .next t → t.tx = .idle →
    (respStatus t.resp).toNat ≤ 5 ∧ t.resp.extractLsb' 16 8 = 0 ∧ (respStatus t.resp ≠ 0 → respValue t.resp = 0)

/-- R247: how many GPIO events a command makes, with no reset cutting its frame.
When a reset cuts a frame (`FrameUncut`) is the model's choice (log 6). -/
def Obligations.EventCounts : Prop :=
  ∀ (i : Instr) (s t : State), exec i s = .next t → FrameUncut s →
    (isBufferCommand i = true ∨ (∃ f, i = .setcoe f) → t.trace.length = s.trace.length) ∧
    ((∃ d c, i = .setup d c) →
      (respStatus t.resp = 0 → t.trace.length = s.trace.length + 2) ∧
      (respStatus t.resp = 4 → t.trace.length = s.trace.length) ∧
      (respStatus t.resp = 5 → t.trace.length = s.trace.length + 1 ∨ t.trace.length = s.trace.length + 2)) ∧
    (i = .showFrame → respStatus t.resp = 0 →
      t.trace.length = s.trace.length + (if s.ready then 906 else 2 + 906)) ∧
    (i = .teardown → respStatus t.resp = 0 → ReadyHasPins s →
      t.trace.length = s.trace.length +
        (if s.coe then (if s.ready then 906 + 2 else 2 + 906 + 2) else (if s.ready then 2 else 0)))
end

