-- ==== Sys2Proof/Laws/Decode.lean ====
section
/-! SUPPORT. Packing and unpacking the fields of a command word, and the slot of an operand. -/

namespace Sys2Proof

/-- Which field a bit of a packed word comes from (R65). -/
theorem pack_getLsbD (f : Fields) (k : Nat) :
    (pack f).getLsbD k =
      if k < 16 then f.e.getLsbD k
      else if k < 32 then f.d.getLsbD (k - 16)
      else if k < 48 then f.c.getLsbD (k - 32)
      else if k < 64 then f.b.getLsbD (k - 48)
      else if k < 80 then f.a.getLsbD (k - 64)
      else if k < 81 then f.bp.getLsbD (k - 80)
      else if k < 88 then f.rsv.getLsbD (k - 81)
      else f.op.getLsbD (k - 88) := by
  change BitVec.getLsbD (w := 8 + 7 + 1 + 16 + 16 + 16 + 16 + 16)
    (f.op ++ f.rsv ++ f.bp ++ f.a ++ f.b ++ f.c ++ f.d ++ f.e) k = _
  rw [BitVec.getLsbD_append, BitVec.getLsbD_append, BitVec.getLsbD_append, BitVec.getLsbD_append,
    BitVec.getLsbD_append, BitVec.getLsbD_append, BitVec.getLsbD_append]
  split_ifs <;> first | (exfalso; omega) | congr 1

/-- Unpacking undoes packing. -/
theorem unpack_pack (f : Fields) : unpack (pack f) = f := by
  obtain ⟨op, rsv, bp, a, b, c, d, e⟩ := f
  simp only [unpack, Fields.mk.injEq]
  refine ⟨?_, ?_, ?_, ?_, ?_, ?_, ?_, ?_⟩ <;>
    (apply BitVec.eq_of_getLsbD_eq
     intro i hi
     simp only [BitVec.getLsbD_extractLsb', pack_getLsbD, hi, decide_true, Bool.true_and]
     split_ifs <;> first | (exfalso; omega) | (congr 1; omega))

/-- Packing undoes unpacking. -/
theorem pack_unpack (w : CmdWord) : pack (unpack w) = w := by
  apply BitVec.eq_of_getLsbD_eq
  intro i hi
  rw [pack_getLsbD]
  simp only [unpack, BitVec.getLsbD_extractLsb']
  split_ifs <;> (rw [decide_eq_true (by omega), Bool.true_and]; congr 1; omega)

/-- The slot of an operand that fits reads back as the operand (R67). -/
theorem slotInt_intSlot {x : Int} (h : FitsSlot x) : slotInt (intSlot x) = x := by
  simp only [slotInt, intSlot, BitVec.toInt_ofInt, Int.bmod_def]
  obtain ⟨h1, h2⟩ := h
  omega

/-- The integer of a slot goes back into the same slot (R67). -/
theorem intSlot_slotInt (x : Slot) : intSlot (slotInt x) = x := BitVec.ofInt_toInt

/-- The integer of a slot fits a slot (R67). -/
theorem slotInt_fits (x : Slot) : FitsSlot (slotInt x) := by
  have h1 := BitVec.le_toInt x
  have h2 := BitVec.toInt_lt (x := x)
  simp only [slotInt, FitsSlot]
  norm_num at h1 h2
  omega

/-- The opcode map read backwards (R70). -/
@[simp] theorem ofCode_code (op : Opcode) : Opcode.ofCode op.code = some op := by
  cases op <;> rfl

/-- The opcode map read forwards (R70). -/
theorem code_of_ofCode {o : BitVec 8} {op : Opcode} (h : Opcode.ofCode o = some op) : op.code = o := by
  revert h
  revert op
  revert o
  decide +kernel

end Sys2Proof
end

