-- ==== Sys2Proof/Laws/State.lean ====
section
/-! SUPPORT. One lemma per field for every update of the state, true by rfl, so that no proof unfolds a record update. -/

namespace Sys2Proof.Machine

open Sys2Proof

/-! ### respond -/

@[simp] theorem State.respond_pix (s : State) (w : RespWord) : (s.respond w).pix = s.pix := rfl
@[simp] theorem State.respond_tx (s : State) (w : RespWord) : (s.respond w).tx = s.tx := rfl
@[simp] theorem State.respond_ready (s : State) (w : RespWord) : (s.respond w).ready = s.ready := rfl
@[simp] theorem State.respond_coe (s : State) (w : RespWord) : (s.respond w).coe = s.coe := rfl
@[simp] theorem State.respond_dataPin (s : State) (w : RespWord) : (s.respond w).dataPin = s.dataPin := rfl
@[simp] theorem State.respond_clkPin (s : State) (w : RespWord) : (s.respond w).clkPin = s.clkPin := rfl
@[simp] theorem State.respond_life (s : State) (w : RespWord) : (s.respond w).life = s.life := rfl
@[simp] theorem State.respond_lvlDat (s : State) (w : RespWord) : (s.respond w).lvlDat = s.lvlDat := rfl
@[simp] theorem State.respond_lvlClk (s : State) (w : RespWord) : (s.respond w).lvlClk = s.lvlClk := rfl
@[simp] theorem State.respond_ebuf (s : State) (w : RespWord) : (s.respond w).ebuf = s.ebuf := rfl
@[simp] theorem State.respond_sr (s : State) (w : RespWord) : (s.respond w).sr = s.sr := rfl
@[simp] theorem State.respond_resp (s : State) (w : RespWord) : (s.respond w).resp = w := rfl
@[simp] theorem State.respond_traceRev (s : State) (w : RespWord) : (s.respond w).traceRev = s.traceRev := rfl
@[simp] theorem State.respond_host (s : State) (w : RespWord) : (s.respond w).host = s.host := rfl
@[simp] theorem State.respond_answers (s : State) (w : RespWord) : (s.respond w).answers = s.answers := rfl
@[simp] theorem State.respond_draws (s : State) (w : RespWord) : (s.respond w).draws = s.draws := rfl

/-! ### pixWrite -/

@[simp] theorem State.pixWrite_pix (s : State) (i : PixelIndex) (p : Pixel) : (s.pixWrite i p).pix = s.pix.set i p := rfl
@[simp] theorem State.pixWrite_tx (s : State) (i : PixelIndex) (p : Pixel) : (s.pixWrite i p).tx = s.tx := rfl
@[simp] theorem State.pixWrite_ready (s : State) (i : PixelIndex) (p : Pixel) : (s.pixWrite i p).ready = s.ready := rfl
@[simp] theorem State.pixWrite_coe (s : State) (i : PixelIndex) (p : Pixel) : (s.pixWrite i p).coe = s.coe := rfl
@[simp] theorem State.pixWrite_dataPin (s : State) (i : PixelIndex) (p : Pixel) : (s.pixWrite i p).dataPin = s.dataPin := rfl
@[simp] theorem State.pixWrite_clkPin (s : State) (i : PixelIndex) (p : Pixel) : (s.pixWrite i p).clkPin = s.clkPin := rfl
@[simp] theorem State.pixWrite_life (s : State) (i : PixelIndex) (p : Pixel) : (s.pixWrite i p).life = s.life := rfl
@[simp] theorem State.pixWrite_lvlDat (s : State) (i : PixelIndex) (p : Pixel) : (s.pixWrite i p).lvlDat = s.lvlDat := rfl
@[simp] theorem State.pixWrite_lvlClk (s : State) (i : PixelIndex) (p : Pixel) : (s.pixWrite i p).lvlClk = s.lvlClk := rfl
@[simp] theorem State.pixWrite_ebuf (s : State) (i : PixelIndex) (p : Pixel) : (s.pixWrite i p).ebuf = s.ebuf := rfl
@[simp] theorem State.pixWrite_sr (s : State) (i : PixelIndex) (p : Pixel) : (s.pixWrite i p).sr = s.sr := rfl
@[simp] theorem State.pixWrite_resp (s : State) (i : PixelIndex) (p : Pixel) : (s.pixWrite i p).resp = s.resp := rfl
@[simp] theorem State.pixWrite_traceRev (s : State) (i : PixelIndex) (p : Pixel) : (s.pixWrite i p).traceRev = s.traceRev := rfl
@[simp] theorem State.pixWrite_host (s : State) (i : PixelIndex) (p : Pixel) : (s.pixWrite i p).host = s.host := rfl
@[simp] theorem State.pixWrite_answers (s : State) (i : PixelIndex) (p : Pixel) : (s.pixWrite i p).answers = s.answers := rfl
@[simp] theorem State.pixWrite_draws (s : State) (i : PixelIndex) (p : Pixel) : (s.pixWrite i p).draws = s.draws := rfl

/-! ### emit -/

@[simp] theorem State.emit_pix (s : State) (e : Event) : (s.emit e).pix = s.pix := rfl
@[simp] theorem State.emit_tx (s : State) (e : Event) : (s.emit e).tx = s.tx := rfl
@[simp] theorem State.emit_ready (s : State) (e : Event) : (s.emit e).ready = s.ready := rfl
@[simp] theorem State.emit_coe (s : State) (e : Event) : (s.emit e).coe = s.coe := rfl
@[simp] theorem State.emit_dataPin (s : State) (e : Event) : (s.emit e).dataPin = s.dataPin := rfl
@[simp] theorem State.emit_clkPin (s : State) (e : Event) : (s.emit e).clkPin = s.clkPin := rfl
@[simp] theorem State.emit_life (s : State) (e : Event) : (s.emit e).life = s.life := rfl
@[simp] theorem State.emit_lvlDat (s : State) (e : Event) : (s.emit e).lvlDat = s.lvlDat := rfl
@[simp] theorem State.emit_lvlClk (s : State) (e : Event) : (s.emit e).lvlClk = s.lvlClk := rfl
@[simp] theorem State.emit_ebuf (s : State) (e : Event) : (s.emit e).ebuf = s.ebuf := rfl
@[simp] theorem State.emit_sr (s : State) (e : Event) : (s.emit e).sr = s.sr := rfl
@[simp] theorem State.emit_resp (s : State) (e : Event) : (s.emit e).resp = s.resp := rfl
@[simp] theorem State.emit_traceRev (s : State) (e : Event) : (s.emit e).traceRev = e :: s.traceRev := rfl
@[simp] theorem State.emit_host (s : State) (e : Event) : (s.emit e).host = s.host := rfl
@[simp] theorem State.emit_answers (s : State) (e : Event) : (s.emit e).answers = s.answers := rfl
@[simp] theorem State.emit_draws (s : State) (e : Event) : (s.emit e).draws = s.draws := rfl

/-! ### assignPins -/

@[simp] theorem State.assignPins_pix (s : State) (d c : Nat) : (s.assignPins d c).pix = s.pix := rfl
@[simp] theorem State.assignPins_tx (s : State) (d c : Nat) : (s.assignPins d c).tx = s.tx := rfl
@[simp] theorem State.assignPins_ready (s : State) (d c : Nat) : (s.assignPins d c).ready = true := rfl
@[simp] theorem State.assignPins_coe (s : State) (d c : Nat) : (s.assignPins d c).coe = s.coe := rfl
@[simp] theorem State.assignPins_dataPin (s : State) (d c : Nat) : (s.assignPins d c).dataPin = some d := rfl
@[simp] theorem State.assignPins_clkPin (s : State) (d c : Nat) : (s.assignPins d c).clkPin = some c := rfl
@[simp] theorem State.assignPins_life (s : State) (d c : Nat) : (s.assignPins d c).life = s.life := rfl
@[simp] theorem State.assignPins_lvlDat (s : State) (d c : Nat) : (s.assignPins d c).lvlDat = .x := rfl
@[simp] theorem State.assignPins_lvlClk (s : State) (d c : Nat) : (s.assignPins d c).lvlClk = .x := rfl
@[simp] theorem State.assignPins_ebuf (s : State) (d c : Nat) : (s.assignPins d c).ebuf = s.ebuf := rfl
@[simp] theorem State.assignPins_sr (s : State) (d c : Nat) : (s.assignPins d c).sr = s.sr := rfl
@[simp] theorem State.assignPins_resp (s : State) (d c : Nat) : (s.assignPins d c).resp = s.resp := rfl
@[simp] theorem State.assignPins_traceRev (s : State) (d c : Nat) : (s.assignPins d c).traceRev = s.traceRev := rfl
@[simp] theorem State.assignPins_host (s : State) (d c : Nat) : (s.assignPins d c).host = s.host := rfl
@[simp] theorem State.assignPins_answers (s : State) (d c : Nat) : (s.assignPins d c).answers = s.answers := rfl
@[simp] theorem State.assignPins_draws (s : State) (d c : Nat) : (s.assignPins d c).draws = s.draws := rfl

/-! ### writeCoe -/

@[simp] theorem State.writeCoe_pix (s : State) (f : Bool) : (s.writeCoe f).pix = s.pix := rfl
@[simp] theorem State.writeCoe_tx (s : State) (f : Bool) : (s.writeCoe f).tx = s.tx := rfl
@[simp] theorem State.writeCoe_ready (s : State) (f : Bool) : (s.writeCoe f).ready = s.ready := rfl
@[simp] theorem State.writeCoe_coe (s : State) (f : Bool) : (s.writeCoe f).coe = f := rfl
@[simp] theorem State.writeCoe_dataPin (s : State) (f : Bool) : (s.writeCoe f).dataPin = s.dataPin := rfl
@[simp] theorem State.writeCoe_clkPin (s : State) (f : Bool) : (s.writeCoe f).clkPin = s.clkPin := rfl
@[simp] theorem State.writeCoe_life (s : State) (f : Bool) : (s.writeCoe f).life = s.life := rfl
@[simp] theorem State.writeCoe_lvlDat (s : State) (f : Bool) : (s.writeCoe f).lvlDat = s.lvlDat := rfl
@[simp] theorem State.writeCoe_lvlClk (s : State) (f : Bool) : (s.writeCoe f).lvlClk = s.lvlClk := rfl
@[simp] theorem State.writeCoe_ebuf (s : State) (f : Bool) : (s.writeCoe f).ebuf = s.ebuf := rfl
@[simp] theorem State.writeCoe_sr (s : State) (f : Bool) : (s.writeCoe f).sr = s.sr := rfl
@[simp] theorem State.writeCoe_resp (s : State) (f : Bool) : (s.writeCoe f).resp = s.resp := rfl
@[simp] theorem State.writeCoe_traceRev (s : State) (f : Bool) : (s.writeCoe f).traceRev = s.traceRev := rfl
@[simp] theorem State.writeCoe_host (s : State) (f : Bool) : (s.writeCoe f).host = s.host := rfl
@[simp] theorem State.writeCoe_answers (s : State) (f : Bool) : (s.writeCoe f).answers = s.answers := rfl
@[simp] theorem State.writeCoe_draws (s : State) (f : Bool) : (s.writeCoe f).draws = s.draws := rfl

/-! ### endLife -/

@[simp] theorem State.endLife_pix (s : State) : (s.endLife).pix = s.pix := rfl
@[simp] theorem State.endLife_tx (s : State) : (s.endLife).tx = s.tx := rfl
@[simp] theorem State.endLife_ready (s : State) : (s.endLife).ready = s.ready := rfl
@[simp] theorem State.endLife_coe (s : State) : (s.endLife).coe = s.coe := rfl
@[simp] theorem State.endLife_dataPin (s : State) : (s.endLife).dataPin = s.dataPin := rfl
@[simp] theorem State.endLife_clkPin (s : State) : (s.endLife).clkPin = s.clkPin := rfl
@[simp] theorem State.endLife_life (s : State) : (s.endLife).life = .released := rfl
@[simp] theorem State.endLife_lvlDat (s : State) : (s.endLife).lvlDat = s.lvlDat := rfl
@[simp] theorem State.endLife_lvlClk (s : State) : (s.endLife).lvlClk = s.lvlClk := rfl
@[simp] theorem State.endLife_ebuf (s : State) : (s.endLife).ebuf = s.ebuf := rfl
@[simp] theorem State.endLife_sr (s : State) : (s.endLife).sr = s.sr := rfl
@[simp] theorem State.endLife_resp (s : State) : (s.endLife).resp = s.resp := rfl
@[simp] theorem State.endLife_traceRev (s : State) : (s.endLife).traceRev = s.traceRev := rfl
@[simp] theorem State.endLife_host (s : State) : (s.endLife).host = s.host := rfl
@[simp] theorem State.endLife_answers (s : State) : (s.endLife).answers = s.answers := rfl
@[simp] theorem State.endLife_draws (s : State) : (s.endLife).draws = s.draws := rfl

/-! ### setTx -/

@[simp] theorem State.setTx_pix (s : State) (p : Tx) : (s.setTx p).pix = s.pix := rfl
@[simp] theorem State.setTx_tx (s : State) (p : Tx) : (s.setTx p).tx = p := rfl
@[simp] theorem State.setTx_ready (s : State) (p : Tx) : (s.setTx p).ready = s.ready := rfl
@[simp] theorem State.setTx_coe (s : State) (p : Tx) : (s.setTx p).coe = s.coe := rfl
@[simp] theorem State.setTx_dataPin (s : State) (p : Tx) : (s.setTx p).dataPin = s.dataPin := rfl
@[simp] theorem State.setTx_clkPin (s : State) (p : Tx) : (s.setTx p).clkPin = s.clkPin := rfl
@[simp] theorem State.setTx_life (s : State) (p : Tx) : (s.setTx p).life = s.life := rfl
@[simp] theorem State.setTx_lvlDat (s : State) (p : Tx) : (s.setTx p).lvlDat = s.lvlDat := rfl
@[simp] theorem State.setTx_lvlClk (s : State) (p : Tx) : (s.setTx p).lvlClk = s.lvlClk := rfl
@[simp] theorem State.setTx_ebuf (s : State) (p : Tx) : (s.setTx p).ebuf = s.ebuf := rfl
@[simp] theorem State.setTx_sr (s : State) (p : Tx) : (s.setTx p).sr = s.sr := rfl
@[simp] theorem State.setTx_resp (s : State) (p : Tx) : (s.setTx p).resp = s.resp := rfl
@[simp] theorem State.setTx_traceRev (s : State) (p : Tx) : (s.setTx p).traceRev = s.traceRev := rfl
@[simp] theorem State.setTx_host (s : State) (p : Tx) : (s.setTx p).host = s.host := rfl
@[simp] theorem State.setTx_answers (s : State) (p : Tx) : (s.setTx p).answers = s.answers := rfl
@[simp] theorem State.setTx_draws (s : State) (p : Tx) : (s.setTx p).draws = s.draws := rfl

/-! ### setEbuf -/

@[simp] theorem State.setEbuf_pix (s : State) (v : Vector Byte Config.bytesPerPixel) : (s.setEbuf v).pix = s.pix := rfl
@[simp] theorem State.setEbuf_tx (s : State) (v : Vector Byte Config.bytesPerPixel) : (s.setEbuf v).tx = s.tx := rfl
@[simp] theorem State.setEbuf_ready (s : State) (v : Vector Byte Config.bytesPerPixel) : (s.setEbuf v).ready = s.ready := rfl
@[simp] theorem State.setEbuf_coe (s : State) (v : Vector Byte Config.bytesPerPixel) : (s.setEbuf v).coe = s.coe := rfl
@[simp] theorem State.setEbuf_dataPin (s : State) (v : Vector Byte Config.bytesPerPixel) : (s.setEbuf v).dataPin = s.dataPin := rfl
@[simp] theorem State.setEbuf_clkPin (s : State) (v : Vector Byte Config.bytesPerPixel) : (s.setEbuf v).clkPin = s.clkPin := rfl
@[simp] theorem State.setEbuf_life (s : State) (v : Vector Byte Config.bytesPerPixel) : (s.setEbuf v).life = s.life := rfl
@[simp] theorem State.setEbuf_lvlDat (s : State) (v : Vector Byte Config.bytesPerPixel) : (s.setEbuf v).lvlDat = s.lvlDat := rfl
@[simp] theorem State.setEbuf_lvlClk (s : State) (v : Vector Byte Config.bytesPerPixel) : (s.setEbuf v).lvlClk = s.lvlClk := rfl
@[simp] theorem State.setEbuf_ebuf (s : State) (v : Vector Byte Config.bytesPerPixel) : (s.setEbuf v).ebuf = v := rfl
@[simp] theorem State.setEbuf_sr (s : State) (v : Vector Byte Config.bytesPerPixel) : (s.setEbuf v).sr = s.sr := rfl
@[simp] theorem State.setEbuf_resp (s : State) (v : Vector Byte Config.bytesPerPixel) : (s.setEbuf v).resp = s.resp := rfl
@[simp] theorem State.setEbuf_traceRev (s : State) (v : Vector Byte Config.bytesPerPixel) : (s.setEbuf v).traceRev = s.traceRev := rfl
@[simp] theorem State.setEbuf_host (s : State) (v : Vector Byte Config.bytesPerPixel) : (s.setEbuf v).host = s.host := rfl
@[simp] theorem State.setEbuf_answers (s : State) (v : Vector Byte Config.bytesPerPixel) : (s.setEbuf v).answers = s.answers := rfl
@[simp] theorem State.setEbuf_draws (s : State) (v : Vector Byte Config.bytesPerPixel) : (s.setEbuf v).draws = s.draws := rfl

/-! ### setSr -/

@[simp] theorem State.setSr_pix (s : State) (v : Byte) : (s.setSr v).pix = s.pix := rfl
@[simp] theorem State.setSr_tx (s : State) (v : Byte) : (s.setSr v).tx = s.tx := rfl
@[simp] theorem State.setSr_ready (s : State) (v : Byte) : (s.setSr v).ready = s.ready := rfl
@[simp] theorem State.setSr_coe (s : State) (v : Byte) : (s.setSr v).coe = s.coe := rfl
@[simp] theorem State.setSr_dataPin (s : State) (v : Byte) : (s.setSr v).dataPin = s.dataPin := rfl
@[simp] theorem State.setSr_clkPin (s : State) (v : Byte) : (s.setSr v).clkPin = s.clkPin := rfl
@[simp] theorem State.setSr_life (s : State) (v : Byte) : (s.setSr v).life = s.life := rfl
@[simp] theorem State.setSr_lvlDat (s : State) (v : Byte) : (s.setSr v).lvlDat = s.lvlDat := rfl
@[simp] theorem State.setSr_lvlClk (s : State) (v : Byte) : (s.setSr v).lvlClk = s.lvlClk := rfl
@[simp] theorem State.setSr_ebuf (s : State) (v : Byte) : (s.setSr v).ebuf = s.ebuf := rfl
@[simp] theorem State.setSr_sr (s : State) (v : Byte) : (s.setSr v).sr = v := rfl
@[simp] theorem State.setSr_resp (s : State) (v : Byte) : (s.setSr v).resp = s.resp := rfl
@[simp] theorem State.setSr_traceRev (s : State) (v : Byte) : (s.setSr v).traceRev = s.traceRev := rfl
@[simp] theorem State.setSr_host (s : State) (v : Byte) : (s.setSr v).host = s.host := rfl
@[simp] theorem State.setSr_answers (s : State) (v : Byte) : (s.setSr v).answers = s.answers := rfl
@[simp] theorem State.setSr_draws (s : State) (v : Byte) : (s.setSr v).draws = s.draws := rfl

/-! ### toIdle -/

@[simp] theorem State.toIdle_pix (s : State) : (s.toIdle).pix = s.pix := rfl
@[simp] theorem State.toIdle_tx (s : State) : (s.toIdle).tx = .idle := rfl
@[simp] theorem State.toIdle_ready (s : State) : (s.toIdle).ready = s.ready := rfl
@[simp] theorem State.toIdle_coe (s : State) : (s.toIdle).coe = s.coe := rfl
@[simp] theorem State.toIdle_dataPin (s : State) : (s.toIdle).dataPin = s.dataPin := rfl
@[simp] theorem State.toIdle_clkPin (s : State) : (s.toIdle).clkPin = s.clkPin := rfl
@[simp] theorem State.toIdle_life (s : State) : (s.toIdle).life = s.life := rfl
@[simp] theorem State.toIdle_lvlDat (s : State) : (s.toIdle).lvlDat = s.lvlDat := rfl
@[simp] theorem State.toIdle_lvlClk (s : State) : (s.toIdle).lvlClk = s.lvlClk := rfl
@[simp] theorem State.toIdle_ebuf (s : State) : (s.toIdle).ebuf = Config.freeEbuf s.draws := rfl
@[simp] theorem State.toIdle_sr (s : State) : (s.toIdle).sr = Config.freeSr s.draws := rfl
@[simp] theorem State.toIdle_resp (s : State) : (s.toIdle).resp = s.resp := rfl
@[simp] theorem State.toIdle_traceRev (s : State) : (s.toIdle).traceRev = s.traceRev := rfl
@[simp] theorem State.toIdle_host (s : State) : (s.toIdle).host = s.host := rfl
@[simp] theorem State.toIdle_answers (s : State) : (s.toIdle).answers = s.answers := rfl
@[simp] theorem State.toIdle_draws (s : State) : (s.toIdle).draws = s.draws + 1 := rfl

/-! ### popHost -/

@[simp] theorem State.popHost_pix (s : State) : (s.popHost).pix = s.pix := rfl
@[simp] theorem State.popHost_tx (s : State) : (s.popHost).tx = s.tx := rfl
@[simp] theorem State.popHost_ready (s : State) : (s.popHost).ready = s.ready := rfl
@[simp] theorem State.popHost_coe (s : State) : (s.popHost).coe = s.coe := rfl
@[simp] theorem State.popHost_dataPin (s : State) : (s.popHost).dataPin = s.dataPin := rfl
@[simp] theorem State.popHost_clkPin (s : State) : (s.popHost).clkPin = s.clkPin := rfl
@[simp] theorem State.popHost_life (s : State) : (s.popHost).life = s.life := rfl
@[simp] theorem State.popHost_lvlDat (s : State) : (s.popHost).lvlDat = s.lvlDat := rfl
@[simp] theorem State.popHost_lvlClk (s : State) : (s.popHost).lvlClk = s.lvlClk := rfl
@[simp] theorem State.popHost_ebuf (s : State) : (s.popHost).ebuf = s.ebuf := rfl
@[simp] theorem State.popHost_sr (s : State) : (s.popHost).sr = s.sr := rfl
@[simp] theorem State.popHost_resp (s : State) : (s.popHost).resp = s.resp := rfl
@[simp] theorem State.popHost_traceRev (s : State) : (s.popHost).traceRev = s.traceRev := rfl
@[simp] theorem State.popHost_host (s : State) : (s.popHost).host = s.host.tail := rfl
@[simp] theorem State.popHost_answers (s : State) : (s.popHost).answers = s.answers := rfl
@[simp] theorem State.popHost_draws (s : State) : (s.popHost).draws = s.draws := rfl

/-! ### setLevel -/

@[simp] theorem State.setLevel_pix (s : State) (n : Line) (l : Level) : (s.setLevel n l).pix = s.pix := by
  cases n <;> rfl
@[simp] theorem State.setLevel_tx (s : State) (n : Line) (l : Level) : (s.setLevel n l).tx = s.tx := by
  cases n <;> rfl
@[simp] theorem State.setLevel_ready (s : State) (n : Line) (l : Level) : (s.setLevel n l).ready = s.ready := by
  cases n <;> rfl
@[simp] theorem State.setLevel_coe (s : State) (n : Line) (l : Level) : (s.setLevel n l).coe = s.coe := by
  cases n <;> rfl
@[simp] theorem State.setLevel_dataPin (s : State) (n : Line) (l : Level) : (s.setLevel n l).dataPin = s.dataPin := by
  cases n <;> rfl
@[simp] theorem State.setLevel_clkPin (s : State) (n : Line) (l : Level) : (s.setLevel n l).clkPin = s.clkPin := by
  cases n <;> rfl
@[simp] theorem State.setLevel_life (s : State) (n : Line) (l : Level) : (s.setLevel n l).life = s.life := by
  cases n <;> rfl
@[simp] theorem State.setLevel_dat_lvlDat (s : State) (l : Level) : (s.setLevel .dat l).lvlDat = l := rfl
@[simp] theorem State.setLevel_clk_lvlDat (s : State) (l : Level) : (s.setLevel .clk l).lvlDat = s.lvlDat := rfl
@[simp] theorem State.setLevel_dat_lvlClk (s : State) (l : Level) : (s.setLevel .dat l).lvlClk = s.lvlClk := rfl
@[simp] theorem State.setLevel_clk_lvlClk (s : State) (l : Level) : (s.setLevel .clk l).lvlClk = l := rfl
@[simp] theorem State.setLevel_ebuf (s : State) (n : Line) (l : Level) : (s.setLevel n l).ebuf = s.ebuf := by
  cases n <;> rfl
@[simp] theorem State.setLevel_sr (s : State) (n : Line) (l : Level) : (s.setLevel n l).sr = s.sr := by
  cases n <;> rfl
@[simp] theorem State.setLevel_resp (s : State) (n : Line) (l : Level) : (s.setLevel n l).resp = s.resp := by
  cases n <;> rfl
@[simp] theorem State.setLevel_traceRev (s : State) (n : Line) (l : Level) : (s.setLevel n l).traceRev = s.traceRev := by
  cases n <;> rfl
@[simp] theorem State.setLevel_host (s : State) (n : Line) (l : Level) : (s.setLevel n l).host = s.host := by
  cases n <;> rfl
@[simp] theorem State.setLevel_answers (s : State) (n : Line) (l : Level) : (s.setLevel n l).answers = s.answers := by
  cases n <;> rfl
@[simp] theorem State.setLevel_draws (s : State) (n : Line) (l : Level) : (s.setLevel n l).draws = s.draws := by
  cases n <;> rfl

/-! ### The trace -/

@[simp] theorem State.trace_emit (s : State) (e : Event) : (s.emit e).trace = s.trace ++ [e] := by
  simp [State.trace]

theorem State.trace_congr {s t : State} (h : s.traceRev = t.traceRev) : s.trace = t.trace := by
  simp [State.trace, h]

end Sys2Proof.Machine
end

