-- ==== Sys2Proof/Laws/Ops.lean ====
section
/-! SUPPORT. One lemma per shared operation that says once everything it can do. -/

namespace Sys2Proof.Machine

open Sys2Proof

/-! ### Taking a command, results -/

/-- A block that takes commands runs the command to a next state (R47). -/
theorem taken_eq {s : State} (h : Takes s) (run : State → State) : taken s run = .next (run s) := by
  simp [taken, h.1, h.2]

/-- A command answers a next state exactly when the block takes it, and it is the one its pseudocode gives (R8, R47). -/
theorem taken_eq_next {s t : State} {run : State → State} :
    taken s run = .next t ↔ Takes s ∧ run s = t := by
  unfold taken Takes
  cases s.life <;> cases s.tx <;> simp

@[simp] theorem Result.answer_done (s : State) (v : BitVec 16) : (Result.done s v).answer = s.respond (okWord v) := rfl
@[simp] theorem Result.answer_raised (s : State) (e : Err) : (Result.raised s e).answer = s.respond (errWord e) := rfl
@[simp] theorem Result.andThen_done (s : State) (v : BitVec 16) (k : State → Result) : (Result.done s v).andThen k = k s := rfl
@[simp] theorem Result.andThen_raised (s : State) (e : Err) (k : State → Result) :
    (Result.raised s e).andThen k = .raised s e := rfl

/-- The response of a command that returns no value (R72). -/
@[simp] theorem okWord_zero : okWord 0#16 = 0#32 := by decide

/-- The status field of a response (R72). -/
@[simp] theorem respStatus_okWord (v : BitVec 16) : respStatus (okWord v) = 0 := by
  unfold respStatus okWord
  apply BitVec.eq_of_getLsbD_eq
  intro i hi
  have h : ¬ (24 + i < 16) := by omega
  simp only [BitVec.getLsbD_extractLsb', BitVec.getLsbD_append, h]
  simp

@[simp] theorem respStatus_errWord (e : Err) : respStatus (errWord e) = e.code := by cases e <;> decide

@[simp] theorem respond_pixWrite (s : State) (i : PixelIndex) (p : Pixel) (w : RespWord) :
    (s.pixWrite i p).respond w = { s with pix := s.pix.set i p, resp := w } := rfl

/-! ### Operand tests -/

/-- The index operand that names pixel `k` passes, and names it (R100). -/
@[simp] theorem withIndex_val (k : PixelIndex) (s : State) (f : PixelIndex → Result) :
    withIndex (k.val : Int) s f = f k := by
  have hk : k.val < 8 := k.isLt
  have h : IndexOk (k.val : Int) := ⟨by omega, by simp only [Config.nPixels]; omega⟩
  have e : pixelAt (k.val : Int) = k := by
    apply Fin.ext
    simp [pixelAt, Fin.ofNat, Nat.mod_eq_of_lt hk]
  simp [withIndex, h, e]

/-- An index out of range is refused before anything else (R100, R203). -/
theorem withIndex_bad {i : Int} (h : ¬ (0 ≤ i ∧ i ≤ 7)) (s : State) (f : PixelIndex → Result) :
    withIndex i s f = .raised s .invalidPixelIndex := by
  have h' : ¬ IndexOk i := by
    simp only [IndexOk, Config.nPixels]; omega
  simp [withIndex, h']

/-- Every index operand either names a pixel or is out of range (R44). -/
theorem index_cases (i : Int) : (∃ k : PixelIndex, i = (k.val : Int)) ∨ ¬ (0 ≤ i ∧ i ≤ 7) := by
  by_cases h : 0 ≤ i ∧ i ≤ 7
  · exact .inl ⟨⟨i.toNat, by simp only [Config.nPixels]; omega⟩, by simp; omega⟩
  · exact .inr h

/-- A byte is a legal colour and is what is stored (R101, R112). -/
@[simp] theorem withColor_toNat (c : Byte) (s : State) (f : Byte → Result) :
    withColor (c.toNat : Int) s f = f c := by
  have hc := c.isLt
  have h : ColorOk (c.toNat : Int) := ⟨by simp [Config.chMin], by simp only [Config.chMax]; omega⟩
  simp [withColor, h]

/-- A colour out of range is refused (R201). -/
theorem withColor_bad {v : Int} (h : ¬ (0 ≤ v ∧ v ≤ 255)) (s : State) (f : Byte → Result) :
    withColor v s f = .raised s .invalidColorValue := by
  simp [withColor, ColorOk, Config.chMin, Config.chMax, h]

/-- Every colour operand either is a byte or is out of range (R201). -/
theorem color_cases (v : Int) : (∃ c : Byte, v = (c.toNat : Int)) ∨ ¬ (0 ≤ v ∧ v ≤ 255) := by
  by_cases h : 0 ≤ v ∧ v ≤ 255
  · exact .inl ⟨BitVec.ofNat 8 v.toNat, by simp; omega⟩
  · exact .inr h

/-- A brightness of 0 to 1000 thousandths passes and is what is stored (R104, R112). -/
theorem withBrightness_natCast {n : Nat} (h : n ≤ 1000) (s : State) (f : Nat → Result) :
    withBrightness (n : Int) s f = f n := by
  have h' : BrightnessOk (n : Int) := ⟨by simp [Config.brtMin], by simp only [Config.brtMax]; omega⟩
  simp [withBrightness, h']

/-- A brightness out of range is refused (R202). -/
theorem withBrightness_bad {n : Int} (h : ¬ (0 ≤ n ∧ n ≤ 1000)) (s : State) (f : Nat → Result) :
    withBrightness n s f = .raised s .invalidBrightnessLevel := by
  simp [withBrightness, BrightnessOk, Config.brtMin, Config.brtMax, h]

/-- Every brightness operand either is a number of thousandths up to 1000 or is out of range (R202). -/
theorem brightness_cases (n : Int) : (∃ m : Nat, m ≤ 1000 ∧ n = (m : Int)) ∨ ¬ (0 ≤ n ∧ n ≤ 1000) := by
  by_cases h : 0 ≤ n ∧ n ≤ 1000
  · exact .inl ⟨n.toNat, by omega, by omega⟩
  · exact .inr h

@[simp] theorem withColors_toNat (r g b : Byte) (s : State) (f : Byte → Byte → Byte → Result) :
    withColors (r.toNat : Int) (g.toNat : Int) (b.toNat : Int) s f = f r g b := by
  simp [withColors]

/-- Of three colours, one out of range is refused whatever the others are (R105, R201). -/
theorem withColors_bad {r g b : Int}
    (h : ¬ ((0 ≤ r ∧ r ≤ 255) ∧ (0 ≤ g ∧ g ≤ 255) ∧ (0 ≤ b ∧ b ≤ 255))) (s : State)
    (f : Byte → Byte → Byte → Result) :
    withColors r g b s f = .raised s .invalidColorValue := by
  unfold withColors
  rcases color_cases r with ⟨r, rfl⟩ | hr
  · rw [withColor_toNat]
    rcases color_cases g with ⟨g, rfl⟩ | hg
    · rw [withColor_toNat]
      rcases color_cases b with ⟨b, rfl⟩ | hb
      · have := r.isLt; have := g.isLt; have := b.isLt
        exact absurd ⟨⟨by omega, by omega⟩, ⟨by omega, by omega⟩, ⟨by omega, by omega⟩⟩ h
      · exact withColor_bad hb s _
    · exact withColor_bad hg s _
  · exact withColor_bad hr s _

/-! ### Loops over the strip -/

theorem forPixels_done_list (g : Pixel → Pixel) (f : PixelIndex → State → Result)
    (hf : ∀ k s, f k s = .done (s.pixWrite k (g (s.pixRead k))) 0) :
    ∀ (ks : List PixelIndex) (s : State), ks.Nodup →
      ∃ t, forPixels f ks s = .done t 0 ∧ { t with pix := s.pix } = s ∧
        ∀ j : PixelIndex, t.pix[j] = if j ∈ ks then g s.pix[j] else s.pix[j]
  | [], s, _ => ⟨s, rfl, rfl, fun j => by simp⟩
  | k :: ks, s, hn => by
    obtain ⟨hk, hn⟩ := List.nodup_cons.mp hn
    obtain ⟨t, h1, h2, h3⟩ := forPixels_done_list g f hf ks (s.pixWrite k (g (s.pixRead k))) hn
    refine ⟨t, by simp [forPixels, hf, h1], ?_, fun j => ?_⟩
    · have h2' := congrArg (fun u : State => ({ u with pix := s.pix } : State)) h2
      exact h2'
    · rw [h3 j]
      by_cases hj : j = k
      · subst hj
        simp [hk, State.pixRead]
      · have hne : (k : Nat) ≠ j := fun e => hj (Fin.ext e.symm)
        have e : (s.pixWrite k (g (s.pixRead k))).pix[j] = s.pix[j] := by
          simp [hne]
        rw [e]
        simp [hj]

/-- A loop whose step rewrites one pixel and cannot fail rewrites every pixel and nothing else (R121 to R123). -/
theorem forPixels_done (g : Pixel → Pixel) (f : PixelIndex → State → Result)
    (hf : ∀ k s, f k s = .done (s.pixWrite k (g (s.pixRead k))) 0) (s : State) :
    forPixels f allPixels s = .done { s with pix := s.pix.map g } 0 := by
  obtain ⟨t, h1, h2, h3⟩ := forPixels_done_list g f hf allPixels s (List.nodup_finRange _)
  rw [h1]
  have e : t.pix = s.pix.map g := by
    apply Vector.ext
    intro j hj
    have := h3 ⟨j, hj⟩
    simpa [allPixels, List.mem_finRange] using this
  have : t = { ({ t with pix := s.pix } : State) with pix := t.pix } := rfl
  rw [this, h2, e]

/-- A loop whose step always fails changes nothing (R122, R125). -/
theorem forPixels_raised (e : Err) (f : PixelIndex → State → Result)
    (hf : ∀ k s, f k s = .raised s e) (s : State) : forPixels f allPixels s = .raised s e := by
  have : allPixels = 0 :: (allPixels.tail) := by decide
  rw [this]
  simp [forPixels, hf]

/-- CLEAR's loop (R123). -/
theorem clearBody_eq (s : State) : clearBody s = .done { s with pix := clearedPixels s.pix } 0 :=
  forPixels_done (fun p => { p with r := 0, g := 0, b := 0 }) clearAt (fun _ _ => rfl) s

/-- The clearing step of TEARDOWN (R184). -/
theorem cleared_eq (s : State) : cleared s = { s with pix := clearedPixels s.pix } := by
  simp [cleared, clearBody_eq]

/-! ### The provider -/

/-- One answer of the provider is used up (R217). -/
theorem askProvider_eq (s : State) : askProvider s = (answerAt s 0, useAnswers 1 s) := by
  unfold askProvider answerAt useAnswers
  cases h : s.answers with
  | nil => simp
  | cons a as => simp

/-- `GpioAcquire(n)`: one event, one answer (R213). -/
theorem gpioAcquire_eq (n : Nat) (s : State) :
    gpioAcquire n s = (answerAt s 0, (useAnswers 1 s).emit (.acq n)) := by
  rw [gpioAcquire, askProvider_eq]
  rfl

@[simp] theorem answerAt_emit (s : State) (e : Event) (k : Nat) : answerAt (s.emit e) k = answerAt s k := rfl

/-- The answer after one has been used up is the next one (R217). -/
theorem answerAt_useAnswers_one (s : State) : answerAt (useAnswers 1 s) 0 = answerAt s 1 := by
  unfold answerAt useAnswers
  cases h : s.answers with
  | nil => simp
  | cons a as => cases as <;> simp

/-- Answers are used up one after the other (R217). -/
theorem useAnswers_one_one (s : State) : useAnswers 1 (useAnswers 1 s) = useAnswers 2 s := by
  unfold useAnswers
  cases h : s.answers with
  | nil => simp
  | cons a as => cases as <;> simp

/-- A line write succeeds: one event, and the line's level (R206, R214). -/
theorem gpioSet_eq (l : Line) (v : Bool) (s : State) :
    gpioSet l v s = (true, (s.emit (.set l v)).setLevel l (Level.ofBit v)) := rfl

/-- The two acquisitions of SETUP (R180): what the provider answers decides, and nothing else. -/
theorem acquirePins_eq (d c : Nat) (s : State) :
    acquirePins d c s =
      if answerAt s 0 then
        if answerAt s 1 then .done ((((useAnswers 2 s).emit (.acq d)).emit (.acq c)).assignPins d c) 0
        else .raised (((useAnswers 2 s).emit (.acq d)).emit (.acq c)) .gpioAcquireFailed
      else .raised ((useAnswers 1 s).emit (.acq d)) .gpioAcquireFailed := by
  have e1 : answerAt ((useAnswers 1 s).emit (.acq d)) 0 = answerAt s 1 := answerAt_useAnswers_one s
  have e2 : useAnswers 1 ((useAnswers 1 s).emit (.acq d)) = (useAnswers 2 s).emit (.acq d) := by
    rw [← useAnswers_one_one]; rfl
  simp only [acquirePins, gpioAcquire_eq, e1, e2]

/-- SETUP with two legal, different pins comes to its two acquisitions (R180). -/
theorem setupBody_legal {d c : Nat} (hd : 1 ≤ d ∧ d ≤ 27) (hc : 1 ≤ c ∧ c ≤ 27) (h : d ≠ c) (s : State) :
    setupBody (d : Int) (c : Int) s = acquirePins d c s := by
  have hd' : PinOk (d : Int) := ⟨by simp only [Config.pinMin]; omega, by simp only [Config.pinMax]; omega⟩
  have hc' : PinOk (c : Int) := ⟨by simp only [Config.pinMin]; omega, by simp only [Config.pinMax]; omega⟩
  have hne : ¬ ((d : Int) = (c : Int)) := by omega
  simp [setupBody, hd', hc', hne]

/-- SETUP with a pin out of range, or with equal pins, asks the provider nothing (R180, R204). -/
theorem setupBody_illegal {d c : Int} (h : ¬ (1 ≤ d ∧ d ≤ 27) ∨ ¬ (1 ≤ c ∧ c ≤ 27) ∨ d = c) (s : State) :
    setupBody d c s = .raised s .invalidGpioPin := by
  unfold setupBody PinOk Config.pinMin Config.pinMax
  split_ifs <;> first | (exfalso; omega) | rfl

end Sys2Proof.Machine
end

