-- ==== Sys2Proof/Laws/Transmitter.lean ====
section
/-! SUPPORT. The micro-step writes the frame's list (R156, R158), and a whole frame is that list. -/

namespace Sys2Proof.Machine

open Sys2Proof

/-! ### The write of a position -/

/-- The line write of a position, from the pixel buffer alone (R156, R158). -/
def lineAt (pix : Vector Pixel Config.nPixels) (n : Nat) : LineWrite :=
  match subOf n with
  | .d => (.dat, phaseOf n = .pixel && (encodePixel pix[pixiOf n])[byteiOf n].getMsbD (bitiOf n))
  | .h => (.clk, true)
  | .l => (.clk, false)

/-- Bit 7 of a byte shifted left `j` times is its bit `7 - j` (R41, R153). -/
theorem sr_bit : ∀ (x : Byte) (j : Fin 8), ((x <<< j.val) &&& 0x80 != 0) = x.getMsbD j.val := by
  decide +kernel

@[simp] theorem length_msbFirst {w : Nat} (x : BitVec w) : (msbFirst x).length = w := by
  simp [msbFirst]

theorem getElem_msbFirst {w : Nat} (x : BitVec w) (j : Nat) (h : j < (msbFirst x).length) :
    (msbFirst x)[j] = x.getMsbD j := by
  have hj : j < w := by simpa using h
  simp only [msbFirst, List.getElem_map, List.getElem_finRange]
  simp [BitVec.getMsb_eq_getLsb, BitVec.getMsbD_eq_getLsbD, hj]
  exact (BitVec.getLsbD_eq_getElem (by omega)).symm

/-- The bits of a joined word are the bits of its parts, the high part's first (R7, R41). -/
theorem msbFirst_append {w v : Nat} (x : BitVec w) (y : BitVec v) :
    msbFirst (x ++ y) = msbFirst x ++ msbFirst y := by
  apply List.ext_getElem
  · simp
  · intro j h1 h2
    rw [getElem_msbFirst, BitVec.getMsbD_append, List.getElem_append]
    by_cases hj : j < w
    · simp [hj, getElem_msbFirst]
    · simp [hj, getElem_msbFirst, Nat.le_of_not_lt hj]

/-- `bitsOf` byte by byte: header, blue, green, red (R143). -/
theorem bitsOf_eq (p : Pixel) : bitsOf p = (encodePixel p).toList.flatMap msbFirst := by
  have h : bitsOf p = msbFirst (header p.brt ++ p.b ++ p.g ++ p.r) := rfl
  rw [h, msbFirst_append, msbFirst_append, msbFirst_append]
  simp [encodePixel]

/-! ### The frame is its 906 positions in order -/

/-- The write of a marker position (R152, R154). -/
theorem lineAt_marker (pix : Vector Pixel Config.nPixels) {n : Nat} (h : phaseOf n ≠ .pixel) :
    lineAt pix n = lineWrite n 0 := by
  cases hs : subOf n <;> simp [lineAt, lineWrite, hs, h]

/-- The writes of the start marker (R152). -/
theorem frame_start (pix : Vector Pixel Config.nPixels) :
    (List.range' 0 65).map (lineAt pix) = markerWrites Config.startPulses := by
  rw [List.map_congr_left (g := fun n => lineWrite n 0)]
  · decide +kernel
  · intro n hn
    apply lineAt_marker
    have h : ∀ n ∈ List.range' 0 65, phaseOf n ≠ .pixel := by decide +kernel
    exact h n hn

/-- The writes of the end marker (R154). -/
theorem frame_end (pix : Vector Pixel Config.nPixels) :
    (List.range' 833 73).map (lineAt pix) = markerWrites Config.endPulses := by
  rw [List.map_congr_left (g := fun n => lineWrite n 0)]
  · decide +kernel
  · intro n hn
    apply lineAt_marker
    have h : ∀ n ∈ List.range' 833 73, phaseOf n ≠ .pixel := by decide +kernel
    exact h n hn

/-- The 24 writes of one byte (R153). -/
theorem byte_writes (x : Byte) :
    (msbFirst x).flatMap bitWrites =
      (List.range 24).map fun n =>
        match bitSub n with
        | .d => (.dat, x.getMsbD (n / 3))
        | .h => (.clk, true)
        | .l => (.clk, false) := by
  revert x; decide +kernel

/-- Where the positions of byte `k` of pixel `i` lie (R18). -/
theorem position_facts : ∀ (i : PixelIndex) (k : Fin Config.bytesPerPixel) (m : Fin 24),
    phaseOf (65 + 96 * i.val + 24 * k.val + m.val) = .pixel ∧
    subOf (65 + 96 * i.val + 24 * k.val + m.val) = bitSub m ∧
    pixiOf (65 + 96 * i.val + 24 * k.val + m.val) = i ∧
    byteiOf (65 + 96 * i.val + 24 * k.val + m.val) = k ∧
    bitiOf (65 + 96 * i.val + 24 * k.val + m.val) = m.val / 3 := by
  decide +kernel

/-- The writes of byte `k` of pixel `i` (R153). -/
theorem frame_byte (pix : Vector Pixel Config.nPixels) (i : PixelIndex) (k : Fin Config.bytesPerPixel) :
    (List.range' (65 + 96 * i.val + 24 * k.val) 24).map (lineAt pix) =
      (msbFirst (encodePixel pix[i])[k]).flatMap bitWrites := by
  rw [byte_writes, List.range'_eq_map_range, List.map_map]
  apply List.map_congr_left
  intro m hm
  obtain ⟨h1, h2, h3, h4, h5⟩ := position_facts i k ⟨m, List.mem_range.mp hm⟩
  simp only at h1 h2 h3 h4 h5
  simp only [Function.comp, lineAt, h1, h2, h3, h4, h5, decide_true, Bool.true_and]

/-- The writes of pixel `i` (R153, R158). -/
theorem frame_pixel (pix : Vector Pixel Config.nPixels) (i : PixelIndex) :
    (List.range' (65 + 96 * i.val) 96).map (lineAt pix) = pixelFrame pix[i] := by
  have h0 : (List.range' (65 + 96 * i.val) 24).map (lineAt pix) = _ := frame_byte pix i 0
  have h1 : (List.range' (65 + 96 * i.val + 24) 24).map (lineAt pix) = _ := frame_byte pix i 1
  have h2 : (List.range' (65 + 96 * i.val + 48) 24).map (lineAt pix) = _ := frame_byte pix i 2
  have h3 : (List.range' (65 + 96 * i.val + 72) 24).map (lineAt pix) = _ := frame_byte pix i 3
  have e : ∀ a, List.range' a 96 =
      List.range' a 24 ++ List.range' (a + 24) 24 ++ List.range' (a + 48) 24 ++ List.range' (a + 72) 24 := by
    intro a
    rw [List.range'_append_1, List.range'_append_1, List.range'_append_1]
  rw [e, List.map_append, List.map_append, List.map_append, h0, h1, h2, h3, pixelFrame, bitsOf_eq]
  simp [encodePixel]
  rfl

/-- The frame of R158 is what its 906 positions write, in order (R156, R160). -/
theorem frameOf_eq (pix : Vector Pixel Config.nPixels) :
    frameOf pix = (List.range' 0 Config.frameWrites).map (lineAt pix) := by
  have e : List.range' 0 Config.frameWrites =
      List.range' 0 65 ++ (allPixels.flatMap fun i => List.range' (65 + 96 * i.val) 96) ++ List.range' 833 73 := by
    decide +kernel
  have hp : pix.toList = allPixels.map fun i => pix[i] := by
    apply List.ext_getElem
    · simp [allPixels]
    · intro j h1 h2
      simp [allPixels]
  rw [e, List.map_append, List.map_append, frame_start, frame_end, List.map_flatMap, frameOf, hp, List.flatMap_map]
  simp only [frame_pixel]

/-- A frame has 906 line writes (R159). -/
@[simp] theorem length_frameOf (pix : Vector Pixel Config.nPixels) : (frameOf pix).length = 906 := by
  rw [frameOf_eq]; exact (List.length_map ..).trans (List.length_range' ..)

/-- The line write of a position in a frame (R156). -/
theorem getElem?_frameOf (pix : Vector Pixel Config.nPixels) (n : Fin Config.frameWrites) :
    (frameOf pix)[n.val]? = some (lineAt pix n) := by
  have := n.isLt
  rw [frameOf_eq]
  simp [this]

/-! ### The micro-step -/

/-- One line write made: its event and its level (R24, R52). -/
def State.written (s : State) (w : LineWrite) : State := (s.emit (.set w.1 w.2)).setLevel w.1 (Level.ofBit w.2)

/-- The registers that only the transmitter uses, replaced. -/
def State.withShift (s : State) (tx : Tx) (ebuf : Vector Byte Config.bytesPerPixel) (sr : Byte) : State :=
  { s with tx := tx, ebuf := ebuf, sr := sr }

/-- A line write's one event (R52). -/
theorem written_trace (s : State) (w : LineWrite) : (s.written w).trace = s.trace ++ [.set w.1 w.2] := by
  obtain ⟨l, v⟩ := w
  cases l <;> simp [State.written, State.trace]

/-- A line write changes the level of its own line only (R24). -/
theorem written_levels (s : State) (w : LineWrite) :
    (w.1 = .dat → (s.written w).lvlDat = Level.ofBit w.2 ∧ (s.written w).lvlClk = s.lvlClk) ∧
    (w.1 = .clk → (s.written w).lvlClk = Level.ofBit w.2 ∧ (s.written w).lvlDat = s.lvlDat) := by
  obtain ⟨l, v⟩ := w
  cases l <;> simp [State.written]

/-- A line write changes no control register (R24, R52). -/
theorem written_control (s : State) (w : LineWrite) :
    (s.written w).ready = s.ready ∧ (s.written w).coe = s.coe ∧ (s.written w).dataPin = s.dataPin ∧
    (s.written w).clkPin = s.clkPin ∧ (s.written w).life = s.life := by
  obtain ⟨l, v⟩ := w
  cases l <;> exact ⟨rfl, rfl, rfl, rfl, rfl⟩

theorem written_withShift (s : State) (w : LineWrite) (tx : Tx) (ebuf : Vector Byte Config.bytesPerPixel) (sr : Byte) :
    (s.withShift tx ebuf sr).written w = (s.written w).withShift tx ebuf sr := by
  obtain ⟨l, v⟩ := w
  cases l <;> rfl

@[simp] theorem toIdle_withShift (s : State) (tx : Tx) (ebuf : Vector Byte Config.bytesPerPixel) (sr : Byte) :
    (s.withShift tx ebuf sr).toIdle = s.toIdle := rfl

/-- The arithmetic of neighbouring positions (R18). -/
theorem next_position : ∀ n : Fin Config.frameWrites,
    (phaseOf n.val = .pixel → pixelOffset n.val % Config.pixelWrites = 0 → pixelOffset n.val % Config.byteWrites = 0) ∧
    (phaseOf n.val = .pixel → pixelOffset n.val % Config.byteWrites = 0 → bitiOf n.val = 0) ∧
    (phaseOf n.val = .pixel → bitiOf n.val < 8) ∧
    (phaseOf (n.val + 1) = .pixel → pixelOffset (n.val + 1) % Config.pixelWrites ≠ 0 →
      phaseOf n.val = .pixel ∧ pixiOf (n.val + 1) = pixiOf n.val) ∧
    (phaseOf (n.val + 1) = .pixel → pixelOffset (n.val + 1) % Config.byteWrites ≠ 0 →
      phaseOf n.val = .pixel ∧ byteiOf (n.val + 1) = byteiOf n.val ∧
      pixelOffset (n.val + 1) % Config.pixelWrites ≠ 0 ∧
      bitiOf (n.val + 1) = bitiOf n.val + (if subOf n.val = .l then 1 else 0)) := by
  decide +kernel

/-- What EBUF and SR hold when the write of a pixel position is made (R25, R153), and that loading them changes nothing
else. -/
theorem loads_eq {s : State} {owner : FrameOwner} {n : Fin Config.frameWrites} (ht : s.tx = .sending owner n)
    (hc : ShiftCoherent s) :
    ∃ ebuf sr, loadSr n (loadEbuf n s) = s.withShift s.tx ebuf sr ∧
      (phaseOf n = .pixel →
        ebuf = encodePixel s.pix[pixiOf n] ∧ sr = (encodePixel s.pix[pixiOf n])[byteiOf n] <<< bitiOf n) := by
  obtain ⟨f1, f2, -, -, -⟩ := next_position n
  by_cases hp : phaseOf n = .pixel
  · obtain ⟨c1, c2⟩ := hc owner n ht hp
    by_cases h96 : pixelOffset n % Config.pixelWrites = 0
    · have h24 := f1 hp h96
      have hb := f2 hp h24
      refine ⟨encodePixel s.pix[pixiOf n], (encodePixel s.pix[pixiOf n])[byteiOf n], ?_, fun _ => ⟨rfl, by simp [hb]⟩⟩
      simp [loadSr, loadEbuf, hp, h96, h24, State.setEbuf, State.setSr, State.withShift, State.pixRead]
    · have he := c1 h96
      by_cases h24 : pixelOffset n % Config.byteWrites = 0
      · have hb := f2 hp h24
        refine ⟨s.ebuf, s.ebuf[byteiOf n], ?_, fun _ => ⟨he, by simp [hb, he]⟩⟩
        simp [loadSr, loadEbuf, hp, h96, h24, State.setSr, State.withShift]
      · refine ⟨s.ebuf, s.sr, ?_, fun _ => ⟨he, by rw [c2 h24, he]⟩⟩
        simp [loadSr, loadEbuf, hp, h96, h24, State.withShift]
  · exact ⟨s.ebuf, s.sr, by simp [loadSr, loadEbuf, hp, State.withShift], fun h => absurd h hp⟩

/-- The line write the micro-step makes is the one of its position (R153, R156). -/
theorem lineWrite_eq (pix : Vector Pixel Config.nPixels) (n : Fin Config.frameWrites) (sr : Byte)
    (h : phaseOf n = .pixel → sr = (encodePixel pix[pixiOf n])[byteiOf n] <<< bitiOf n) :
    lineWrite n sr = lineAt pix n := by
  obtain ⟨-, -, f3, -, -⟩ := next_position n
  by_cases hp : phaseOf n = .pixel
  · have hb := sr_bit (encodePixel pix[pixiOf n])[byteiOf n] ⟨bitiOf n, f3 hp⟩
    rw [h hp]
    simp only at hb
    cases hs : subOf n <;> simp [lineAt, lineWrite, hs, hp]
    exact hb
  · rw [lineAt_marker pix hp]
    simp only [lineWrite, hp, decide_false, Bool.false_and]

/-- The micro-step (R156): exactly the position's line write; then the position moves by one, with EBUF and SR again as the
next position needs them, or the frame is over. -/
theorem txStep_eq {s : State} {owner : FrameOwner} {n : Fin Config.frameWrites} (ht : s.tx = .sending owner n)
    (hc : ShiftCoherent s) :
    (∃ h : n.val + 1 < Config.frameWrites, ∃ ebuf sr,
      txStep s = (s.written (lineAt s.pix n)).withShift (.sending owner ⟨n.val + 1, h⟩) ebuf sr ∧
        ShiftCoherent (txStep s)) ∨
    (n.val + 1 = Config.frameWrites ∧ txStep s = finish owner none (s.written (lineAt s.pix n)).toIdle) := by
  obtain ⟨ebuf, sr, h1, h2⟩ := loads_eq ht hc
  have hw : lineWrite n sr = lineAt s.pix n := lineWrite_eq s.pix n sr fun hp => (h2 hp).2
  obtain ⟨sr', h3⟩ : ∃ sr', shiftSr n ((s.withShift s.tx ebuf sr).written (lineAt s.pix n)) =
      (s.written (lineAt s.pix n)).withShift s.tx ebuf sr' ∧
      sr' = if phaseOf n = .pixel ∧ subOf n = .l then sr <<< 1 else sr := by
    rw [written_withShift]
    by_cases hs : phaseOf n = .pixel ∧ subOf n = .l
    · exact ⟨sr <<< 1, by simp only [shiftSr, hs, and_self, if_true]; rfl, by simp [hs]⟩
    · exact ⟨sr, by simp only [shiftSr, hs, if_false], by simp [hs]⟩
  have hstep : txStep s = advance owner n ((s.written (lineAt s.pix n)).withShift s.tx ebuf sr') := by
    rw [← h3.1, txStep, ht]
    simp only [h1, ht]
    rw [show (s.withShift (.sending owner n) ebuf sr).sr = sr from rfl, hw, gpioSet_eq]
    rfl
  by_cases h : n.val + 1 < Config.frameWrites
  · left
    have e : txStep s = (s.written (lineAt s.pix n)).withShift (.sending owner ⟨n.val + 1, h⟩) ebuf sr' := by
      rw [hstep, advance, dif_pos h]; rfl
    refine ⟨h, ebuf, sr', e, ?_⟩
    rw [e]
    intro o m hm hp
    have hpix : ((s.written (lineAt s.pix n)).withShift (.sending owner ⟨n.val + 1, h⟩) ebuf sr').pix = s.pix := by
      unfold State.written
      simp [State.withShift]
    obtain ⟨-, -, -, f4, f5⟩ := next_position n
    have hm' : m = ⟨n.val + 1, h⟩ := (Tx.sending.injEq .. ▸ hm.symm : _ ∧ _).2
    subst hm'
    simp only [hpix]
    refine ⟨fun h96 => ?_, fun h24 => ?_⟩
    · obtain ⟨g1, g2⟩ := f4 hp h96
      change ebuf = _
      rw [(h2 g1).1]
      simp only [g2]
    · obtain ⟨g1, g2, g3, g4⟩ := f5 hp h24
      change sr' = ebuf[byteiOf (n.val + 1)] <<< bitiOf (n.val + 1)
      simp only [g2, g4, h3.2, g1, true_and, (h2 g1).1, (h2 g1).2]
      by_cases hl : subOf n = .l
      · simp [hl, BitVec.shiftLeft_add]
      · simp [hl]
  · right
    have hn : n.val + 1 = Config.frameWrites := Nat.le_antisymm n.isLt (Nat.le_of_not_lt h)
    exact ⟨hn, by rw [hstep, advance, dif_neg h]; rfl⟩

/-! ### A whole frame -/

/-- A list of line writes made, one after the other (R48). -/
def State.writeAll (s : State) : List LineWrite → State
  | [] => s
  | w :: ws => (s.written w).writeAll ws

theorem writeAll_withShift (ws : List LineWrite) (s : State) (tx : Tx) (ebuf : Vector Byte Config.bytesPerPixel)
    (sr : Byte) : (s.withShift tx ebuf sr).writeAll ws = (s.writeAll ws).withShift tx ebuf sr := by
  induction ws generalizing s with
  | nil => rfl
  | cons w ws ih => simp only [State.writeAll, written_withShift, ih]

theorem writeAll_append (ws vs : List LineWrite) (s : State) :
    s.writeAll (ws ++ vs) = (s.writeAll ws).writeAll vs := by
  induction ws generalizing s with
  | nil => rfl
  | cons w ws ih => simp only [List.cons_append, State.writeAll, ih]

/-- What a list of line writes leaves: the trace grows by its events, the levels change, nothing else does (R24, R52). -/
theorem writeAll_spec (ws : List LineWrite) (s : State) :
    (s.writeAll ws).trace = s.trace ++ setEvents ws ∧
    ({ s.writeAll ws with traceRev := s.traceRev, lvlDat := s.lvlDat, lvlClk := s.lvlClk } : State) = s := by
  induction ws generalizing s with
  | nil => simp [State.writeAll, setEvents]
  | cons w ws ih =>
    obtain ⟨h1, h2⟩ := ih (s.written w)
    obtain ⟨l, v⟩ := w
    refine ⟨?_, ?_⟩
    · rw [State.writeAll, h1]
      have : (s.written (l, v)).trace = s.trace ++ [.set l v] := by
        cases l <;> simp [State.written, State.trace, State.setLevel, State.emit]
      rw [this]
      simp [setEvents]
    · have h := congrArg
        (fun u : State => ({ u with traceRev := s.traceRev, lvlDat := s.lvlDat, lvlClk := s.lvlClk } : State)) h2
      simp only at h
      rw [State.writeAll]
      refine h.trans ?_
      cases l <;> rfl

@[simp] theorem writeAll_pix (ws : List LineWrite) (s : State) : (s.writeAll ws).pix = s.pix :=
  (congrArg State.pix (writeAll_spec ws s).2 :)
@[simp] theorem writeAll_tx (ws : List LineWrite) (s : State) : (s.writeAll ws).tx = s.tx :=
  (congrArg State.tx (writeAll_spec ws s).2 :)
@[simp] theorem writeAll_ready (ws : List LineWrite) (s : State) : (s.writeAll ws).ready = s.ready :=
  (congrArg State.ready (writeAll_spec ws s).2 :)
@[simp] theorem writeAll_coe (ws : List LineWrite) (s : State) : (s.writeAll ws).coe = s.coe :=
  (congrArg State.coe (writeAll_spec ws s).2 :)
@[simp] theorem writeAll_dataPin (ws : List LineWrite) (s : State) : (s.writeAll ws).dataPin = s.dataPin :=
  (congrArg State.dataPin (writeAll_spec ws s).2 :)
@[simp] theorem writeAll_clkPin (ws : List LineWrite) (s : State) : (s.writeAll ws).clkPin = s.clkPin :=
  (congrArg State.clkPin (writeAll_spec ws s).2 :)
@[simp] theorem writeAll_life (ws : List LineWrite) (s : State) : (s.writeAll ws).life = s.life :=
  (congrArg State.life (writeAll_spec ws s).2 :)
@[simp] theorem writeAll_ebuf (ws : List LineWrite) (s : State) : (s.writeAll ws).ebuf = s.ebuf :=
  (congrArg State.ebuf (writeAll_spec ws s).2 :)
@[simp] theorem writeAll_sr (ws : List LineWrite) (s : State) : (s.writeAll ws).sr = s.sr :=
  (congrArg State.sr (writeAll_spec ws s).2 :)
@[simp] theorem writeAll_resp (ws : List LineWrite) (s : State) : (s.writeAll ws).resp = s.resp :=
  (congrArg State.resp (writeAll_spec ws s).2 :)
@[simp] theorem writeAll_host (ws : List LineWrite) (s : State) : (s.writeAll ws).host = s.host :=
  (congrArg State.host (writeAll_spec ws s).2 :)
@[simp] theorem writeAll_answers (ws : List LineWrite) (s : State) : (s.writeAll ws).answers = s.answers :=
  (congrArg State.answers (writeAll_spec ws s).2 :)
@[simp] theorem writeAll_draws (ws : List LineWrite) (s : State) : (s.writeAll ws).draws = s.draws :=
  (congrArg State.draws (writeAll_spec ws s).2 :)
@[simp] theorem writeAll_trace (ws : List LineWrite) (s : State) : (s.writeAll ws).trace = s.trace ++ setEvents ws :=
  (writeAll_spec ws s).1

/-- A frame leaves both lines at 0 (R163). -/
theorem writeAll_frame_levels (pix : Vector Pixel Config.nPixels) (s : State) :
    (s.writeAll (frameOf pix)).lvlDat = .zero ∧ (s.writeAll (frameOf pix)).lvlClk = .zero := by
  rw [frameOf, writeAll_append]
  exact ⟨rfl, rfl⟩

theorem written_pix (s : State) (w : LineWrite) : (s.written w).pix = s.pix := by
  simp [State.written]

theorem written_host (s : State) (w : LineWrite) : (s.written w).host = s.host := by
  simp [State.written]

/-- No reset is due in a frame that no reset cuts (R232). -/
theorem resetDue_uncut {s : State} {owner : FrameOwner} {n : Fin Config.frameWrites} (ht : s.tx = .sending owner n)
    (hu : FrameUncut s) : resetDue s = false := by
  unfold resetDue
  rw [ht]
  cases hh : s.host with
  | nil => rfl
  | cons x xs =>
    cases x with
    | command w => rfl
    | reset k =>
      have := hu k xs hh
      have := n.isLt
      simp
      omega

/-- From position `n` on, the remaining micro-steps make the remaining writes of the frame, and then the command the frame
belongs to ends (R156, R160). -/
theorem runFrame_from : ∀ (fuel : Nat) (s : State) (owner : FrameOwner) (n : Fin Config.frameWrites),
    s.tx = .sending owner n → ShiftCoherent s → FrameUncut s → n.val + (fuel + 1) = Config.frameWrites →
    runFrame (fuel + 1) s =
      finish owner none (s.writeAll ((List.range' n.val (fuel + 1)).map (lineAt s.pix))).toIdle
  | 0, s, owner, n, ht, hc, hu, hf => by
    rcases txStep_eq ht hc with ⟨h, -⟩ | ⟨-, h⟩
    · omega
    · rw [runFrame, ht]
      simp only [resetDue_uncut ht hu]
      exact h
  | fuel + 1, s, owner, n, ht, hc, hu, hf => by
    rcases txStep_eq ht hc with ⟨h, ebuf, sr, h1, h2⟩ | ⟨h, -⟩
    · have hpix : (txStep s).pix = s.pix := by rw [h1]; exact written_pix s _
      have hhost : (txStep s).host = s.host := by rw [h1]; exact written_host s _
      have hu' : FrameUncut (txStep s) := fun k rest hk => hu k rest (hhost ▸ hk)
      have ih := runFrame_from fuel (txStep s) owner ⟨n.val + 1, h⟩ (by rw [h1]; rfl) h2 hu' (by simp only; omega)
      rw [runFrame, ht]
      simp only [resetDue_uncut ht hu]
      refine ih.trans ?_
      rw [hpix, h1, writeAll_withShift, toIdle_withShift, List.range'_succ (n := fuel + 1), List.map_cons, State.writeAll]
    · omega

/-- A frame from its first position: all 906 writes of the list of R158, then the command ends (R150, R151, R162). -/
theorem runFrame_whole {s : State} {owner : FrameOwner} (ht : s.tx = .sending owner 0) (hu : FrameUncut s) :
    runFrame Config.frameWrites s = finish owner none (s.writeAll (frameOf s.pix)).toIdle := by
  have hc : ShiftCoherent s := by
    intro o m hm hp
    have hm' : m = 0 := (Tx.sending.injEq .. ▸ (ht.symm.trans hm).symm : _ ∧ _).2
    subst hm'
    exact absurd hp (by decide)
  rw [frameOf_eq]
  exact runFrame_from 905 s owner 0 ht hc hu rfl

/-! ### SHOW's work, whoever asks for it -/

/-- On held handles it is one whole frame (R150). -/
theorem sendFrame_ready {s : State} (owner : FrameOwner) (hr : s.ready = true) (hu : FrameUncut s) :
    sendFrame owner s = finish owner none (s.writeAll (frameOf s.pix)).toIdle := by
  have hb : beginFrame owner s = s.setTx (.sending owner 0) := by simp [beginFrame, hr]
  have e : s.setTx (.sending owner 0) = s.withShift (.sending owner 0) s.ebuf s.sr := rfl
  rw [sendFrame, hb]
  refine (runFrame_whole (owner := owner) (s := s.setTx (.sending owner 0)) rfl hu).trans ?_
  rw [e, writeAll_withShift, toIdle_withShift]
  rfl

/-- Nothing runs in Idle (R156). -/
theorem runFrame_idle {s : State} (h : s.tx = .idle) (fuel : Nat) : runFrame fuel s = s := by
  cases fuel <;> simp [runFrame, h]

@[simp] theorem gpioRelease_tx (pin : Option Nat) (s : State) : (gpioRelease pin s).tx = s.tx := by
  cases pin <;> rfl

/-- The end of a command moves no sequencer (R150, R184). -/
@[simp] theorem finish_tx (owner : FrameOwner) (err : Option Err) (s : State) : (finish owner err s).tx = s.tx := by
  cases owner <;> cases err <;> simp [finish, teardownTail] <;> split <;> simp

/-- The state in which a lazy setup that succeeded leaves the block (R182). -/
def State.lazySetup (s : State) : State :=
  (((useAnswers 2 s).emit (.acq 23)).emit (.acq 24)).assignPins 23 24

/-- Without handles the default pins are acquired first; if that fails the command ends with no line write (R150, R182). -/
theorem sendFrame_unready {s : State} (owner : FrameOwner) (hr : s.ready = false) (ht : s.tx = .idle)
    (hu : FrameUncut s) :
    sendFrame owner s =
      if answerAt s 0 then
        if answerAt s 1 then finish owner none (s.lazySetup.writeAll (frameOf s.pix)).toIdle
        else finish owner (some .gpioAcquireFailed) (((useAnswers 2 s).emit (.acq 23)).emit (.acq 24))
      else finish owner (some .gpioAcquireFailed) ((useAnswers 1 s).emit (.acq 23)) := by
  have hb : setupBody Config.defDataPin Config.defClkPin s = acquirePins 23 24 s :=
    setupBody_legal (d := 23) (c := 24) (by omega) (by omega) (by omega) s
  unfold sendFrame beginFrame
  simp only [hr, hb, acquirePins_eq]
  cases h0 : answerAt s 0
  · exact runFrame_idle (by simpa [useAnswers] using ht) _
  · cases h1 : answerAt s 1
    · exact runFrame_idle (by simpa [useAnswers] using ht) _
    · have e : s.lazySetup.setTx (.sending owner 0) =
          s.lazySetup.withShift (.sending owner 0) s.ebuf s.sr := rfl
      refine (runFrame_whole (owner := owner) (s := s.lazySetup.setTx (.sending owner 0)) rfl hu).trans ?_
      rw [e, writeAll_withShift, toIdle_withShift]
      rfl

/-! ### The micro-step and the frame on any state -/

/-- The micro-step in any state in which a frame runs: one line write, EBUF and SR, and either the next position or the end of
the command (R156). -/
theorem txStep_shape {s : State} {owner : FrameOwner} {n : Fin Config.frameWrites} (ht : s.tx = .sending owner n) :
    ∃ w ebuf sr,
      (∃ h : n.val + 1 < Config.frameWrites,
        txStep s = (s.written w).withShift (.sending owner ⟨n.val + 1, h⟩) ebuf sr) ∨
      (n.val + 1 = Config.frameWrites ∧ txStep s = finish owner none (s.written w).toIdle) := by
  obtain ⟨ebuf, sr, h1⟩ : ∃ ebuf sr, loadSr n (loadEbuf n s) = s.withShift s.tx ebuf sr := by
    refine ⟨(loadSr n (loadEbuf n s)).ebuf, (loadSr n (loadEbuf n s)).sr, ?_⟩
    unfold loadSr loadEbuf
    split <;> split <;> rfl
  obtain ⟨sr', h2⟩ : ∃ sr', shiftSr n ((s.withShift s.tx ebuf sr).written (lineWrite n sr)) =
      (s.written (lineWrite n sr)).withShift s.tx ebuf sr' := by
    rw [written_withShift]
    unfold shiftSr
    split
    · exact ⟨_, rfl⟩
    · exact ⟨_, rfl⟩
  have hstep : txStep s = advance owner n ((s.written (lineWrite n sr)).withShift s.tx ebuf sr') := by
    rw [← h2, txStep, ht]
    simp only [h1, ht, gpioSet_eq]
    rfl
  refine ⟨lineWrite n sr, ebuf, sr', ?_⟩
  rw [hstep]
  by_cases h : n.val + 1 < Config.frameWrites
  · exact .inl ⟨h, by rw [advance, dif_pos h]; rfl⟩
  · exact .inr ⟨Nat.le_antisymm n.isLt (Nat.le_of_not_lt h), by rw [advance, dif_neg h]; rfl⟩

/-- What every micro-step keeps, a frame keeps, cut off or not (R162, R232). -/
theorem runFrame_induct {P : State → Prop}
    (hstep : ∀ s owner n, s.tx = .sending owner n → P s → P (txStep s)) :
    ∀ (fuel : Nat) (s : State), P s → P (runFrame fuel s)
  | 0, _, h => h
  | fuel + 1, s, h => by
    unfold runFrame
    cases ht : s.tx with
    | idle => exact h
    | sending owner n =>
      simp only
      split
      · exact h
      · exact runFrame_induct hstep fuel _ (hstep s owner n ht h)

@[simp] theorem finish_byShow_none (s : State) : finish .byShow none s = s.respond (okWord 0) := rfl
@[simp] theorem finish_byShow_some (e : Err) (s : State) : finish .byShow (some e) s = s.respond (errWord e) := rfl

/-- The last lines of TEARDOWN on a ready block: data released, then clock, and the life ends (R184). -/
theorem teardownTail_ready {s : State} {d c : Nat} (hr : s.ready = true) (hd : s.dataPin = some d)
    (hc : s.clkPin = some c) :
    teardownTail none s = .done ((s.emit (.rel d)).emit (.rel c)).endLife 0 := by
  simp [teardownTail, hr, hd, hc, gpioRelease]

/-- The last lines of TEARDOWN on a block that holds no handles (R184, R186). -/
theorem teardownTail_unready {s : State} (err : Option Err) (hr : s.ready = false) :
    (teardownTail err s).answer =
      s.endLife.respond (match err with
        | some e => errWord e
        | none => okWord 0) := by
  cases err <;> simp [teardownTail, hr]

/-- What the end of a command may change (R150, R184): the trace by releases, LIFE, RESP. -/
theorem finish_spec (owner : FrameOwner) (err : Option Err) (s : State) :
    ∃ rels resp, (∀ e ∈ rels, ∃ n, e = Event.rel n) ∧ (owner = .byShow → rels = []) ∧
      finish owner err s = { s with
        traceRev := rels ++ s.traceRev
        life := match owner with
          | .byShow => s.life
          | .byTeardown => .released
        resp := resp } := by
  cases owner with
  | byShow => cases err <;> exact ⟨[], _, by simp, fun _ => rfl, rfl⟩
  | byTeardown =>
    by_cases hr : s.ready = true
    · have hg : ∀ pin, ∃ rels, (∀ e ∈ rels, ∃ n, e = Event.rel n) ∧
          ∀ u : State, gpioRelease pin u = { u with traceRev := rels ++ u.traceRev } := by
        intro pin
        cases pin with
        | none => exact ⟨[], by simp, fun _ => rfl⟩
        | some n => exact ⟨[.rel n], by simp, fun _ => rfl⟩
      obtain ⟨r1, q1, e1⟩ := hg s.dataPin
      obtain ⟨r2, q2, e2⟩ := hg s.clkPin
      have q : ∀ e ∈ r2 ++ r1, ∃ n, e = Event.rel n := fun e he =>
        (List.mem_append.mp he).elim (q2 e) (q1 e)
      have e : (if s.ready then gpioRelease s.clkPin (gpioRelease s.dataPin s) else s) =
          { s with traceRev := r2 ++ r1 ++ s.traceRev } := by
        rw [if_pos hr, e1, e2, List.append_assoc]
      cases err with
      | none => exact ⟨r2 ++ r1, okWord 0, q, by simp, by rw [finish, teardownTail, e]; rfl⟩
      | some x => exact ⟨r2 ++ r1, errWord x, q, by simp, by rw [finish, teardownTail, e]; rfl⟩
    · simp only [Bool.not_eq_true] at hr
      rw [finish, teardownTail_unready err hr]
      exact ⟨[], _, by simp, by simp, rfl⟩

end Sys2Proof.Machine
end

