-- ==== Sys2Proof/Laws/Exec.lean ====
section
/-! SUPPORT. What a command can do, said once: the bodies of the buffer commands case by case, and one inversion lemma for all of
them. -/

namespace Sys2Proof.Machine

open Sys2Proof

/-! ### The buffer after a write -/

/-- What a buffer command may have made of the buffer (R14): in each record the brightness is the old one or the legal operand,
and the colours are the old ones unless the command writes colours. -/
def BufferWrite (i : Instr) (before after : Vector Pixel Config.nPixels) : Prop :=
  ∀ k : PixelIndex,
    (after[k].brt = before[k].brt ∨ ∃ n : Nat, brightnessOperand i = some (n : Int) ∧ n ≤ 1000 ∧ after[k].brt = n) ∧
    ((after[k].r = before[k].r ∧ after[k].g = before[k].g ∧ after[k].b = before[k].b) ∨
      colorOperands i ≠ [] ∨ (∃ x, i = .pclr x) ∨ i = .clear)

theorem BufferWrite.refl (i : Instr) (P : Vector Pixel Config.nPixels) : BufferWrite i P P :=
  fun _ => ⟨.inl rfl, .inl ⟨rfl, rfl, rfl⟩⟩

/-- A write of one record. -/
theorem BufferWrite.set {i : Instr} {P : Vector Pixel Config.nPixels} {k : PixelIndex} {p : Pixel}
    (hb : p.brt = P[k].brt ∨ ∃ n : Nat, brightnessOperand i = some (n : Int) ∧ n ≤ 1000 ∧ p.brt = n)
    (hc : (p.r = P[k].r ∧ p.g = P[k].g ∧ p.b = P[k].b) ∨ colorOperands i ≠ [] ∨ (∃ x, i = .pclr x) ∨ i = .clear) :
    BufferWrite i P (P.set k p) := by
  intro j
  by_cases hj : j = k
  · subst hj
    have e : (P.set j p)[j] = p := Vector.getElem_set_self j.isLt
    rw [e]; exact ⟨hb, hc⟩
  · have e : (P.set k p)[j] = P[j] := Vector.getElem_set_ne k.isLt j.isLt fun h => hj (Fin.ext h.symm)
    rw [e]; exact ⟨.inl rfl, .inl ⟨rfl, rfl, rfl⟩⟩

/-- A write of every record. -/
theorem BufferWrite.map {i : Instr} {P : Vector Pixel Config.nPixels} {g : Pixel → Pixel}
    (hb : ∀ p, (g p).brt = p.brt ∨ ∃ n : Nat, brightnessOperand i = some (n : Int) ∧ n ≤ 1000 ∧ (g p).brt = n)
    (hc : ∀ p, ((g p).r = p.r ∧ (g p).g = p.g ∧ (g p).b = p.b) ∨ colorOperands i ≠ [] ∨ (∃ x, i = .pclr x) ∨ i = .clear) :
    BufferWrite i P (P.map g) := by
  intro j
  have e : (P.map g)[j] = g P[j] := Vector.getElem_map ..
  rw [e]; exact ⟨hb _, hc _⟩

/-! ### SETPIXS and SETBRT as loops -/

/-- SETPIXS with legal colours and no brightness (R121). -/
theorem setpixsBody_none (r g b : Byte) (s : State) :
    setpixsBody r.toNat g.toNat b.toNat none s =
      .done { s with pix := s.pix.map fun p => { r := r, g := g, b := b, brt := p.brt } } 0 :=
  forPixels_done (fun p => { r := r, g := g, b := b, brt := p.brt }) _ (fun k s => by simp [setpixBody]) s

/-- SETPIXS with legal colours and a legal brightness (R121). -/
theorem setpixsBody_some (r g b : Byte) {n : Nat} (hn : n ≤ 1000) (s : State) :
    setpixsBody r.toNat g.toNat b.toNat (some (n : Int)) s =
      .done { s with pix := s.pix.map fun _ => { r := r, g := g, b := b, brt := n } } 0 :=
  forPixels_done (fun _ => { r := r, g := g, b := b, brt := n }) _
    (fun k s => by simp [setpixBody, withBrightness_natCast hn]) s

/-- SETPIXS with a bad colour fails at record 0 (R121, R125). -/
theorem setpixsBody_badColor {r g b : Int} (h : ¬ ((0 ≤ r ∧ r ≤ 255) ∧ (0 ≤ g ∧ g ≤ 255) ∧ (0 ≤ b ∧ b ≤ 255)))
    (br : Option Int) (s : State) : setpixsBody r g b br s = .raised s .invalidColorValue :=
  forPixels_raised _ _ (fun k s => by simp [setpixBody, withColors_bad h]) s

/-- SETPIXS with a bad brightness fails at record 0 (R121, R125). -/
theorem setpixsBody_badBrightness (r g b : Byte) {n : Int} (h : ¬ (0 ≤ n ∧ n ≤ 1000)) (s : State) :
    setpixsBody r.toNat g.toNat b.toNat (some n) s = .raised s .invalidBrightnessLevel :=
  forPixels_raised _ _ (fun k s => by simp [setpixBody, withBrightness_bad h]) s

/-- SETBRT with a legal brightness (R122). -/
theorem setbrtBody_legal {n : Nat} (hn : n ≤ 1000) (s : State) :
    setbrtBody (n : Int) s = .done { s with pix := s.pix.map fun p => { p with brt := n } } 0 :=
  forPixels_done (fun p => { p with brt := n }) _ (fun k s => by simp [setBrightnessAt, withBrightness_natCast hn]) s

/-- SETBRT with a bad brightness (R122). -/
theorem setbrtBody_bad {n : Int} (h : ¬ (0 ≤ n ∧ n ≤ 1000)) (s : State) :
    setbrtBody n s = .raised s .invalidBrightnessLevel :=
  forPixels_raised _ _ (fun k s => by simp [setBrightnessAt, withBrightness_bad h]) s

/-- Three colour operands are three bytes, or one of them is out of range (R105, R201). -/
theorem colors_cases (r g b : Int) :
    (∃ x y z : Byte, r = (x.toNat : Int) ∧ g = (y.toNat : Int) ∧ b = (z.toNat : Int)) ∨
      ¬ ((0 ≤ r ∧ r ≤ 255) ∧ (0 ≤ g ∧ g ≤ 255) ∧ (0 ≤ b ∧ b ≤ 255)) := by
  rcases color_cases r with ⟨x, hx⟩ | h
  · rcases color_cases g with ⟨y, hy⟩ | h
    · rcases color_cases b with ⟨z, hz⟩ | h
      · exact .inl ⟨x, y, z, hx, hy, hz⟩
      · exact .inr fun h' => h h'.2.2
    · exact .inr fun h' => h h'.2.1
  · exact .inr fun h' => h h'.1

/-! ### All buffer commands -/

/-- How the pseudocode of a buffer command may end (R126, R210): done, with the buffer written as the command may and nothing
else changed, or raised on the unchanged state, with an error the command has an operand for. -/
def BufferEnd (i : Instr) (s : State) (x : Result) : Prop :=
  (∃ P v, x = .done { s with pix := P } v ∧ BufferWrite i s.pix P) ∨
  (∃ e, x = .raised s e ∧
    ((e = .invalidPixelIndex ∧ indexOperand i ≠ none) ∨ (e = .invalidColorValue ∧ colorOperands i ≠ []) ∨
      (e = .invalidBrightnessLevel ∧ brightnessOperand i ≠ none)))

theorem bufferEnd_same (i : Instr) (s : State) (v : BitVec 16) : BufferEnd i s (.done s v) :=
  .inl ⟨s.pix, v, rfl, .refl i s.pix⟩

theorem bufferEnd_get (i : Instr) (x : Int) (h : indexOperand i = some x) (read : Pixel → BitVec 16) (s : State) :
    BufferEnd i s (getBody read x s) := by
  rcases index_cases x with ⟨k, rfl⟩ | hx
  · simp only [getBody, withIndex_val]; exact bufferEnd_same i s _
  · rw [getBody, withIndex_bad hx]; exact .inr ⟨_, rfl, .inl ⟨rfl, by simp [h]⟩⟩

/-- Every buffer command is taken as a pseudocode that ends so (R126). -/
theorem exec_buffer (i : Instr) (hb : isBufferCommand i = true) :
    ∃ body : State → Result, (∀ s, exec i s = taken s fun s => (body s).answer) ∧ ∀ s, BufferEnd i s (body s) := by
  have idx : ∀ (i : Instr) (x : Int) (s : State) (f : PixelIndex → Result), indexOperand i = some x →
      (∀ k : PixelIndex, x = (k.val : Int) → BufferEnd i s (f k)) → BufferEnd i s (withIndex x s f) := by
    intro i x s f hi hf
    rcases index_cases x with ⟨k, rfl⟩ | hx
    · rw [withIndex_val]; exact hf k rfl
    · rw [withIndex_bad hx]; exact .inr ⟨_, rfl, .inl ⟨rfl, by simp [hi]⟩⟩
  have brt : ∀ (i : Instr) (n : Int) (s : State) (f : Nat → Result), brightnessOperand i = some n →
      (∀ m : Nat, m ≤ 1000 → n = (m : Int) → BufferEnd i s (f m)) → BufferEnd i s (withBrightness n s f) := by
    intro i n s f hi hf
    rcases brightness_cases n with ⟨m, hm, rfl⟩ | hn
    · rw [withBrightness_natCast hm]; exact hf m hm rfl
    · rw [withBrightness_bad hn]; exact .inr ⟨_, rfl, .inr (.inr ⟨rfl, by simp [hi]⟩)⟩
  have col : ∀ (i : Instr) (v : Int) (s : State) (f : Byte → Result), colorOperands i ≠ [] →
      (∀ c : Byte, BufferEnd i s (f c)) → BufferEnd i s (withColor v s f) := by
    intro i v s f hi hf
    rcases color_cases v with ⟨c, rfl⟩ | hv
    · rw [withColor_toNat]; exact hf c
    · rw [withColor_bad hv]; exact .inr ⟨_, rfl, .inr (.inl ⟨rfl, hi⟩)⟩
  have cols : ∀ (i : Instr) (r g b : Int) (s : State) (f : Byte → Byte → Byte → Result), colorOperands i ≠ [] →
      (∀ r g b : Byte, BufferEnd i s (f r g b)) → BufferEnd i s (withColors r g b s f) := fun i r g b s f hi hf =>
    col i r s _ hi fun r => col i g s _ hi fun g => col i b s _ hi fun b => hf r g b
  cases i with
  | setr i v =>
    exact ⟨setrBody i v, fun _ => rfl, fun s => idx _ i s _ rfl fun k _ => col _ v s _ (by simp [colorOperands]) fun c =>
      .inl ⟨_, _, rfl, .set (.inl rfl) (.inr (.inl (by simp [colorOperands])))⟩⟩
  | setg i v =>
    exact ⟨setgBody i v, fun _ => rfl, fun s => idx _ i s _ rfl fun k _ => col _ v s _ (by simp [colorOperands]) fun c =>
      .inl ⟨_, _, rfl, .set (.inl rfl) (.inr (.inl (by simp [colorOperands])))⟩⟩
  | setb i v =>
    exact ⟨setbBody i v, fun _ => rfl, fun s => idx _ i s _ rfl fun k _ => col _ v s _ (by simp [colorOperands]) fun c =>
      .inl ⟨_, _, rfl, .set (.inl rfl) (.inr (.inl (by simp [colorOperands])))⟩⟩
  | psetbr i br =>
    exact ⟨psetbrBody i br, fun _ => rfl, fun s => idx _ i s _ rfl fun k _ => brt _ br s _ rfl fun m hm e =>
      .inl ⟨_, _, rfl, .set (.inr ⟨m, by simp [brightnessOperand, e], hm, rfl⟩) (.inl ⟨rfl, rfl, rfl⟩)⟩⟩
  | setrgbb i r g b br =>
    exact ⟨setrgbbBody i r g b br, fun _ => rfl, fun s => idx _ i s _ rfl fun k _ =>
      cols _ r g b s _ (by simp [colorOperands]) fun r' g' b' => brt _ br s _ rfl fun m hm e =>
        .inl ⟨_, _, rfl, .set (.inr ⟨m, by simp [brightnessOperand, e], hm, rfl⟩) (.inr (.inl (by simp [colorOperands])))⟩⟩
  | pclr i =>
    exact ⟨pclrBody i, fun _ => rfl, fun s => idx _ i s _ rfl fun k _ =>
      .inl ⟨_, _, rfl, .set (.inl rfl) (.inr (.inr (.inl ⟨_, rfl⟩)))⟩⟩
  | getr i => exact ⟨_, fun _ => rfl, fun s => bufferEnd_get _ i rfl _ s⟩
  | getg i => exact ⟨_, fun _ => rfl, fun s => bufferEnd_get _ i rfl _ s⟩
  | getb i => exact ⟨_, fun _ => rfl, fun s => bufferEnd_get _ i rfl _ s⟩
  | getbr i => exact ⟨_, fun _ => rfl, fun s => bufferEnd_get _ i rfl _ s⟩
  | getbrv i => exact ⟨_, fun _ => rfl, fun s => bufferEnd_get _ i rfl _ s⟩
  | setpix i r g b =>
    exact ⟨setpixBody i r g b none, fun _ => rfl, fun s => idx _ i s _ rfl fun k _ =>
      cols _ r g b s _ (by simp [colorOperands]) fun r' g' b' =>
        .inl ⟨_, _, rfl, .set (.inl rfl) (.inr (.inl (by simp [colorOperands])))⟩⟩
  | setpixBr i r g b br =>
    exact ⟨setpixBody i r g b (some br), fun _ => rfl, fun s => idx _ i s _ rfl fun k _ =>
      cols _ r g b s _ (by simp [colorOperands]) fun r' g' b' => brt _ br s _ rfl fun m hm e =>
        .inl ⟨_, _, rfl, .set (.inr ⟨m, by simp [brightnessOperand, e], hm, rfl⟩) (.inr (.inl (by simp [colorOperands])))⟩⟩
  | setpixs r g b =>
    refine ⟨setpixsBody r g b none, fun _ => rfl, fun s => ?_⟩
    rcases colors_cases r g b with ⟨x, y, z, rfl, rfl, rfl⟩ | h
    · rw [setpixsBody_none]
      exact .inl ⟨_, _, rfl, .map (fun _ => .inl rfl) fun _ => .inr (.inl (by simp [colorOperands]))⟩
    · rw [setpixsBody_badColor h]; exact .inr ⟨_, rfl, .inr (.inl ⟨rfl, by simp [colorOperands]⟩)⟩
  | setpixsBr r g b br =>
    refine ⟨setpixsBody r g b (some br), fun _ => rfl, fun s => ?_⟩
    rcases colors_cases r g b with ⟨x, y, z, rfl, rfl, rfl⟩ | h
    · rcases brightness_cases br with ⟨m, hm, rfl⟩ | hn
      · rw [setpixsBody_some _ _ _ hm]
        exact .inl ⟨_, _, rfl, .map (fun _ => .inr ⟨m, rfl, hm, rfl⟩) fun _ => .inr (.inl (by simp [colorOperands]))⟩
      · rw [setpixsBody_badBrightness _ _ _ hn]
        exact .inr ⟨_, rfl, .inr (.inr ⟨rfl, by simp [brightnessOperand]⟩)⟩
    · rw [setpixsBody_badColor h]; exact .inr ⟨_, rfl, .inr (.inl ⟨rfl, by simp [colorOperands]⟩)⟩
  | setbrt br =>
    refine ⟨setbrtBody br, fun _ => rfl, fun s => ?_⟩
    rcases brightness_cases br with ⟨m, hm, rfl⟩ | hn
    · rw [setbrtBody_legal hm]
      exact .inl ⟨_, _, rfl, .map (fun _ => .inr ⟨m, rfl, hm, rfl⟩) fun _ => .inl ⟨rfl, rfl, rfl⟩⟩
    · rw [setbrtBody_bad hn]; exact .inr ⟨_, rfl, .inr (.inr ⟨rfl, by simp [brightnessOperand]⟩)⟩
  | clear =>
    refine ⟨clearBody, fun _ => rfl, fun s => ?_⟩
    rw [clearBody_eq]
    exact .inl ⟨_, _, rfl, .map (fun _ => .inl rfl) fun _ => .inr (.inr (.inr rfl))⟩
  | getpix i => exact ⟨getpixBody i, fun _ => rfl, fun s => idx _ i s _ rfl fun k _ => bufferEnd_same _ s _⟩
  | showFrame => cases hb
  | setup d c => cases hb
  | setcoe f => cases hb
  | teardown => cases hb

/-! ### A buffer command sees the pixels only -/

/-- A pseudocode whose pixels and response are a function of the pixel buffer and which changes nothing else (R126, R210). -/
def OnPixels (body : State → Result) : Prop :=
  ∃ f : Vector Pixel Config.nPixels → Vector Pixel Config.nPixels × RespWord,
    ∀ s, (body s).answer = { s with pix := (f s.pix).1, resp := (f s.pix).2 }

theorem OnPixels.value (v : Vector Pixel Config.nPixels → BitVec 16) : OnPixels fun s => .done s (v s.pix) :=
  ⟨fun P => (P, okWord (v P)), fun _ => rfl⟩

theorem OnPixels.raised (e : Err) : OnPixels fun s => .raised s e := ⟨fun P => (P, errWord e), fun _ => rfl⟩

theorem OnPixels.write (k : PixelIndex) (p : Pixel → Pixel) : OnPixels fun s => .done (s.pixWrite k (p (s.pixRead k))) 0 :=
  ⟨fun P => (P.set k (p P[k]), okWord 0), fun _ => rfl⟩

theorem OnPixels.withIndex (i : Int) {f : PixelIndex → State → Result} (h : ∀ k, OnPixels (f k)) :
    OnPixels fun s => withIndex i s fun k => f k s := by
  rcases index_cases i with ⟨k, rfl⟩ | hi
  · simpa only [withIndex_val] using h k
  · simpa only [withIndex_bad hi] using OnPixels.raised _

theorem OnPixels.withColor (v : Int) {f : Byte → State → Result} (h : ∀ c, OnPixels (f c)) :
    OnPixels fun s => withColor v s fun c => f c s := by
  rcases color_cases v with ⟨c, rfl⟩ | hv
  · simpa only [withColor_toNat] using h c
  · simpa only [withColor_bad hv] using OnPixels.raised _

theorem OnPixels.withColors (r g b : Int) {f : Byte → Byte → Byte → State → Result} (h : ∀ r g b, OnPixels (f r g b)) :
    OnPixels fun s => withColors r g b s fun r g b => f r g b s :=
  withColor r fun r => withColor g fun g => withColor b fun b => h r g b

theorem OnPixels.withBrightness (n : Int) {f : Nat → State → Result} (h : ∀ m, OnPixels (f m)) :
    OnPixels fun s => withBrightness n s fun m => f m s := by
  rcases brightness_cases n with ⟨m, hm, rfl⟩ | hn
  · simpa only [withBrightness_natCast hm] using h m
  · simpa only [withBrightness_bad hn] using OnPixels.raised _

/-- Every buffer command is taken as a pseudocode that sees the pixels only (R126): neither READY nor any other field decides
what it does. -/
theorem exec_buffer_onPixels (i : Instr) (hb : isBufferCommand i = true) :
    ∃ body : State → Result, (∀ s, exec i s = taken s fun s => (body s).answer) ∧ OnPixels body := by
  have get (read : Pixel → BitVec 16) (x) : OnPixels (getBody read x) :=
    .withIndex x fun k => .value fun P => read P[k]
  cases i with
  | setr i v => exact ⟨_, fun _ => rfl, .withIndex i fun k => .withColor v fun c => .write k fun p => { p with r := c }⟩
  | setg i v => exact ⟨_, fun _ => rfl, .withIndex i fun k => .withColor v fun c => .write k fun p => { p with g := c }⟩
  | setb i v => exact ⟨_, fun _ => rfl, .withIndex i fun k => .withColor v fun c => .write k fun p => { p with b := c }⟩
  | psetbr i n =>
    exact ⟨_, fun _ => rfl, .withIndex i fun k => .withBrightness n fun n => .write k fun p => { p with brt := n }⟩
  | setrgbb i r g b n =>
    exact ⟨_, fun _ => rfl, .withIndex i fun k => .withColors r g b fun r g b =>
      .withBrightness n fun n => .write k fun _ => ⟨r, g, b, n⟩⟩
  | pclr i => exact ⟨_, fun _ => rfl, .withIndex i fun k => .write k fun p => { p with r := 0, g := 0, b := 0 }⟩
  | getr i => exact ⟨_, fun _ => rfl, get _ i⟩
  | getg i => exact ⟨_, fun _ => rfl, get _ i⟩
  | getb i => exact ⟨_, fun _ => rfl, get _ i⟩
  | getbr i => exact ⟨_, fun _ => rfl, get _ i⟩
  | getbrv i => exact ⟨_, fun _ => rfl, get _ i⟩
  | setpix i r g b =>
    exact ⟨_, fun _ => rfl, .withIndex i fun k => .withColors r g b fun r g b => .write k fun p => ⟨r, g, b, p.brt⟩⟩
  | setpixBr i r g b n =>
    exact ⟨_, fun _ => rfl, .withIndex i fun k => .withColors r g b fun r g b =>
      .withBrightness n fun n => .write k fun _ => ⟨r, g, b, n⟩⟩
  | setpixs r g b =>
    refine ⟨setpixsBody r g b none, fun _ => rfl, ?_⟩
    rcases colors_cases r g b with ⟨x, y, z, rfl, rfl, rfl⟩ | h
    · exact ⟨fun P => (_, _), fun s => by rw [setpixsBody_none]; rfl⟩
    · exact ⟨fun P => (P, _), fun s => by rw [setpixsBody_badColor h]; rfl⟩
  | setpixsBr r g b n =>
    refine ⟨setpixsBody r g b (some n), fun _ => rfl, ?_⟩
    rcases colors_cases r g b with ⟨x, y, z, rfl, rfl, rfl⟩ | h
    · rcases brightness_cases n with ⟨m, hm, rfl⟩ | hn
      · exact ⟨fun P => (_, _), fun s => by rw [setpixsBody_some _ _ _ hm]; rfl⟩
      · exact ⟨fun P => (P, _), fun s => by rw [setpixsBody_badBrightness _ _ _ hn]; rfl⟩
    · exact ⟨fun P => (P, _), fun s => by rw [setpixsBody_badColor h]; rfl⟩
  | setbrt n =>
    refine ⟨setbrtBody n, fun _ => rfl, ?_⟩
    rcases brightness_cases n with ⟨m, hm, rfl⟩ | hn
    · exact ⟨fun P => (_, _), fun s => by rw [setbrtBody_legal hm]; rfl⟩
    · exact ⟨fun P => (P, _), fun s => by rw [setbrtBody_bad hn]; rfl⟩
  | clear => exact ⟨clearBody, fun _ => rfl, fun P => (clearedPixels P, _), fun s => by rw [clearBody_eq]; rfl⟩
  | getpix i => exact ⟨_, fun _ => rfl, .withIndex i fun k => .value fun _ => BitVec.ofNat 16 k.val⟩
  | showFrame => cases hb
  | setup d c => cases hb
  | setcoe f => cases hb
  | teardown => cases hb

/-! ### The other commands -/

theorem exec_showFrame (s : State) : exec .showFrame s = taken s (sendFrame .byShow) := rfl
theorem exec_setup (d c : Int) (s : State) : exec (.setup d c) s = taken s fun s => (setupBody d c s).answer := rfl
theorem exec_setcoe (f : Bool) (s : State) : exec (.setcoe f) s = taken s fun s => (s.writeCoe f).respond 0 := by
  cases f <;> rfl
theorem exec_teardown (s : State) :
    exec .teardown s =
      taken s fun s => if s.coe then sendFrame .byTeardown (cleared s) else (teardownTail none s).answer := rfl

/-- A block that takes SHOW runs its frame (R150). -/
theorem exec_showFrame_next {s : State} (h : Takes s) : exec .showFrame s = .next (sendFrame .byShow s) := taken_eq h _

/-- A block that takes SETUP does its work (R180). -/
theorem exec_setup_next {s : State} (h : Takes s) (d c : Int) : exec (.setup d c) s = .next (setupBody d c s).answer :=
  taken_eq h fun s => (setupBody d c s).answer

/-- A block that takes TEARDOWN runs its frame, with COE = 1, and its last lines (R184). -/
theorem exec_teardown_next {s : State} (h : Takes s) :
    exec .teardown s =
      .next (if s.coe then sendFrame .byTeardown (cleared s) else (teardownTail none s).answer) :=
  taken_eq h fun s => if s.coe then sendFrame .byTeardown (cleared s) else (teardownTail none s).answer

/-- SETUP's work, whatever its operands (R180): refused before any call on the provider, refused by the provider after one call
or two, or done, with the handles assigned. -/
theorem setupBody_cases (d c : Int) (s : State) :
    setupBody d c s = .raised s .invalidGpioPin ∨
    ∃ m n : Nat, (d = m ∧ 1 ≤ m ∧ m ≤ 27) ∧ (c = n ∧ 1 ≤ n ∧ n ≤ 27) ∧ m ≠ n ∧
      (setupBody d c s = .raised ((useAnswers 1 s).emit (.acq m)) .gpioAcquireFailed ∨
       setupBody d c s = .raised (((useAnswers 2 s).emit (.acq m)).emit (.acq n)) .gpioAcquireFailed ∨
       setupBody d c s = .done ((((useAnswers 2 s).emit (.acq m)).emit (.acq n)).assignPins m n) 0) := by
  by_cases h : ¬ (1 ≤ d ∧ d ≤ 27) ∨ ¬ (1 ≤ c ∧ c ≤ 27) ∨ d = c
  · exact .inl (setupBody_illegal h s)
  · obtain ⟨m, rfl⟩ : ∃ m : Nat, d = (m : Int) := ⟨d.toNat, by omega⟩
    obtain ⟨n, rfl⟩ : ∃ n : Nat, c = (n : Int) := ⟨c.toNat, by omega⟩
    have hm : 1 ≤ m ∧ m ≤ 27 := by omega
    have hn : 1 ≤ n ∧ n ≤ 27 := by omega
    have hne : m ≠ n := by omega
    refine .inr ⟨m, n, ⟨rfl, hm⟩, ⟨rfl, hn⟩, hne, ?_⟩
    rw [setupBody_legal hm hn hne, acquirePins_eq]
    split_ifs
    · exact .inr (.inr rfl)
    · exact .inr (.inl rfl)
    · exact .inl rfl

/-- How a frame begins (R150, R182): at its first position, on the state itself or on the one a lazy setup has left; or not at
all, the lazy setup refused. -/
theorem beginFrame_cases (owner : FrameOwner) (s : State) :
    (s.ready = true ∧ beginFrame owner s = s.setTx (.sending owner 0)) ∨
    (s.ready = false ∧
      (beginFrame owner s = s.lazySetup.setTx (.sending owner 0) ∨
       beginFrame owner s = finish owner (some .gpioAcquireFailed) ((useAnswers 1 s).emit (.acq 23)) ∨
       beginFrame owner s =
         finish owner (some .gpioAcquireFailed) (((useAnswers 2 s).emit (.acq 23)).emit (.acq 24)))) := by
  cases hr : s.ready
  · refine .inr ⟨rfl, ?_⟩
    have hb : setupBody Config.defDataPin Config.defClkPin s = acquirePins 23 24 s :=
      setupBody_legal (d := 23) (c := 24) (by omega) (by omega) (by omega) s
    rw [acquirePins_eq] at hb
    split_ifs at hb
    · exact .inl (by simp [beginFrame, hr, hb, State.lazySetup])
    · exact .inr (.inr (by simp [beginFrame, hr, hb]))
    · exact .inr (.inl (by simp [beginFrame, hr, hb]))
  · exact .inl ⟨rfl, by simp [beginFrame, hr]⟩

/-- SHOW's work leaves a state with `P` if its four beginnings have `P` and every micro-step keeps it; a frame that a reset cuts
off is among what it leaves (R150, R162, R232). -/
theorem sendFrame_keeps {P : State → Prop} (owner : FrameOwner) (s : State)
    (ready : s.ready = true → P (s.setTx (.sending owner 0)))
    (lazily : s.ready = false → P (s.lazySetup.setTx (.sending owner 0)))
    (refused : s.ready = false → P (finish owner (some .gpioAcquireFailed) ((useAnswers 1 s).emit (.acq 23))))
    (refused' : s.ready = false →
      P (finish owner (some .gpioAcquireFailed) (((useAnswers 2 s).emit (.acq 23)).emit (.acq 24))))
    (micro : ∀ u o n, u.tx = .sending o n → P u → P (txStep u)) : P (sendFrame owner s) := by
  refine runFrame_induct micro _ _ ?_
  rcases beginFrame_cases owner s with ⟨h, e⟩ | ⟨h, e | e | e⟩ <;> rw [e]
  · exact ready h
  · exact lazily h
  · exact refused h
  · exact refused' h

end Sys2Proof.Machine
end

