-- ==== Sys2Proof/Laws/PerInstr.lean ====
section
/-! SUPPORT. One statement about every command as a term: what its command word holds (R65 to R70). -/

namespace Sys2Proof.Laws.EncodedFields

open Sys2Proof

/-- The word of a command carries its opcode, reserved bits 0, and `BP = 1` only if it is a SETPIX or SETPIXS (R65, R66). -/
def Statement (i : Instr) : Prop :=
  (unpack (encode i)).op = i.opcode.code ∧ (unpack (encode i)).rsv = 0 ∧
    ((unpack (encode i)).bp = 1 → i.opcode = .setpix ∨ i.opcode = .setpixs)

/-- The fields are those the encoder packs (R65). -/
theorem of_fields {i : Instr} (h : (encodeFields i).op = i.opcode.code ∧ (encodeFields i).rsv = 0 ∧
    ((encodeFields i).bp = 1 → i.opcode = .setpix ∨ i.opcode = .setpixs)) : Statement i := by
  unfold Statement encode
  rwa [unpack_pack]

theorem setr (i v : Int) : Statement (.setr i v) := of_fields ⟨rfl, rfl, fun h => absurd (show (0 : BitVec 1) = 1 from h) (by decide)⟩
theorem setg (i v : Int) : Statement (.setg i v) := of_fields ⟨rfl, rfl, fun h => absurd (show (0 : BitVec 1) = 1 from h) (by decide)⟩
theorem setb (i v : Int) : Statement (.setb i v) := of_fields ⟨rfl, rfl, fun h => absurd (show (0 : BitVec 1) = 1 from h) (by decide)⟩
theorem psetbr (i br : Int) : Statement (.psetbr i br) := of_fields ⟨rfl, rfl, fun h => absurd (show (0 : BitVec 1) = 1 from h) (by decide)⟩
theorem setrgbb (i r g b br : Int) : Statement (.setrgbb i r g b br) := of_fields ⟨rfl, rfl, fun h => absurd (show (0 : BitVec 1) = 1 from h) (by decide)⟩
theorem pclr (i : Int) : Statement (.pclr i) := of_fields ⟨rfl, rfl, fun h => absurd (show (0 : BitVec 1) = 1 from h) (by decide)⟩
theorem getr (i : Int) : Statement (.getr i) := of_fields ⟨rfl, rfl, fun h => absurd (show (0 : BitVec 1) = 1 from h) (by decide)⟩
theorem getg (i : Int) : Statement (.getg i) := of_fields ⟨rfl, rfl, fun h => absurd (show (0 : BitVec 1) = 1 from h) (by decide)⟩
theorem getb (i : Int) : Statement (.getb i) := of_fields ⟨rfl, rfl, fun h => absurd (show (0 : BitVec 1) = 1 from h) (by decide)⟩
theorem getbr (i : Int) : Statement (.getbr i) := of_fields ⟨rfl, rfl, fun h => absurd (show (0 : BitVec 1) = 1 from h) (by decide)⟩
theorem getbrv (i : Int) : Statement (.getbrv i) := of_fields ⟨rfl, rfl, fun h => absurd (show (0 : BitVec 1) = 1 from h) (by decide)⟩
theorem setpix (i r g b : Int) : Statement (.setpix i r g b) := of_fields ⟨rfl, rfl, fun _ => .inl rfl⟩
theorem setpixBr (i r g b br : Int) : Statement (.setpixBr i r g b br) := of_fields ⟨rfl, rfl, fun _ => .inl rfl⟩
theorem setpixs (r g b : Int) : Statement (.setpixs r g b) := of_fields ⟨rfl, rfl, fun _ => .inr rfl⟩
theorem setpixsBr (r g b br : Int) : Statement (.setpixsBr r g b br) := of_fields ⟨rfl, rfl, fun _ => .inr rfl⟩
theorem setbrt (br : Int) : Statement (.setbrt br) := of_fields ⟨rfl, rfl, fun h => absurd (show (0 : BitVec 1) = 1 from h) (by decide)⟩
theorem clear : Statement .clear := of_fields ⟨rfl, rfl, fun h => absurd (show (0 : BitVec 1) = 1 from h) (by decide)⟩
theorem getpix (i : Int) : Statement (.getpix i) := of_fields ⟨rfl, rfl, fun h => absurd (show (0 : BitVec 1) = 1 from h) (by decide)⟩
theorem showFrame : Statement .showFrame := of_fields ⟨rfl, rfl, fun h => absurd (show (0 : BitVec 1) = 1 from h) (by decide)⟩
theorem setup (d c : Int) : Statement (.setup d c) := of_fields ⟨rfl, rfl, fun h => absurd (show (0 : BitVec 1) = 1 from h) (by decide)⟩
theorem setcoe (f : Bool) : Statement (.setcoe f) := of_fields ⟨rfl, rfl, fun h => absurd (show (0 : BitVec 1) = 1 from h) (by decide)⟩
theorem teardown : Statement .teardown := of_fields ⟨rfl, rfl, fun h => absurd (show (0 : BitVec 1) = 1 from h) (by decide)⟩

end Sys2Proof.Laws.EncodedFields
end

