-- ==== Sys2Proof/Laws/Step.lean ====
section
/-! SUPPORT. What one step of the machine can do, said once (R47, R156, R230). -/

namespace Sys2Proof.Machine

open Sys2Proof

/-- A reset that is due is the step (R230, R232). -/
theorem step_reset {s : State} (h : resetDue s = true) : step s = .next s.hostReset := by
  simp [step, portStep, h]

/-- With no reset due, the step of a state in a frame is its micro-step (R156). -/
theorem step_sending {s : State} {owner : FrameOwner} {n : Fin Config.frameWrites} (ht : s.tx = .sending owner n)
    (hd : resetDue s = false) : step s = .next (txStep s) := by
  simp [step, portStep, hd, ht]

/-- A step with no reset due: the micro-step of the running frame; or the command of the word on the port, or the answer to an
illegal word; or nothing, on an idle, living block with nothing to do. -/
theorem step_cases {s t : State} (h : step s = .next t) (hd : resetDue s = false) :
    (∃ owner n, s.tx = .sending owner n ∧ t = txStep s) ∨
    (s.tx = .idle ∧ ∃ w rest, s.host = .command w :: rest ∧
      ((∃ i, decode w = .ok i ∧ exec i s.popHost = .next t) ∨
       (∃ e, decode w = .error e ∧ s.life = .alive ∧ t = s.popHost.respond (errWord .illegalCommand)))) ∨
    (s.tx = .idle ∧ s.life = .alive ∧ t = s) := by
  simp only [step, portStep, hd] at h
  cases ht : s.tx with
  | sending owner n =>
    rw [ht] at h
    cases h
    exact .inl ⟨owner, n, rfl, rfl⟩
  | idle =>
    rw [ht] at h
    have idle : idleStep s = .next t → s.life = .alive ∧ t = s := by
      unfold idleStep
      cases s.life <;> simp
      exact Eq.symm
    cases hh : s.host with
    | nil => rw [hh] at h; exact .inr (.inr ⟨rfl, idle h⟩)
    | cons x xs =>
      cases x with
      | reset k => rw [hh] at h; exact .inr (.inr ⟨rfl, idle h⟩)
      | command w =>
        rw [hh] at h
        refine .inr (.inl ⟨rfl, w, xs, rfl, ?_⟩)
        have h' : takeWord w s.popHost = .next t := h
        unfold takeWord at h'
        split at h'
        · rename_i i hi; exact .inl ⟨i, hi, h'⟩
        · rename_i e he
          obtain ⟨h1, rfl⟩ := taken_eq_next.mp h'
          exact .inr ⟨e, he, h1.1, rfl⟩

end Sys2Proof.Machine
end

