-- ==== Sys2Proof/Machine/Mnemonics.lean ====
section
/-! DEFINITION. The written form of a command (R70, R74): its mnemonic and its operand list. Nothing in the semantics reads it. -/

namespace Sys2Proof.Machine

open Sys2Proof

/-- The mnemonic of a command (R70). -/
def mnemonicOf : Instr → String
  | .setr _ _ => "SETR"
  | .setg _ _ => "SETG"
  | .setb _ _ => "SETB"
  | .psetbr _ _ => "PSETBR"
  | .setrgbb _ _ _ _ _ => "SETRGBB"
  | .pclr _ => "PCLR"
  | .getr _ => "GETR"
  | .getg _ => "GETG"
  | .getb _ => "GETB"
  | .getbr _ => "GETBR"
  | .getbrv _ => "GETBRV"
  | .setpix _ _ _ _ => "SETPIX"
  | .setpixBr _ _ _ _ _ => "SETPIX"
  | .setpixs _ _ _ => "SETPIXS"
  | .setpixsBr _ _ _ _ => "SETPIXS"
  | .setbrt _ => "SETBRT"
  | .clear => "CLEAR"
  | .getpix _ => "GETPIX"
  | .showFrame => "SHOW"
  | .setup _ _ => "SETUP"
  | .setcoe _ => "SETCOE"
  | .teardown => "TEARDOWN"

/-- A brightness in thousandths as a decimal number with three digits after the point (R74). -/
def brightnessText (n : Int) : String :=
  let m := n.natAbs
  let frac := m % Config.brtDen
  (if n < 0 then "-" else "") ++ toString (m / Config.brtDen) ++ "." ++
    toString (frac / 100) ++ toString (frac / 10 % 10) ++ toString (frac % 10)

/-- The operand list of a command (R74): index, red, green, blue as decimal integers, the brightness as a decimal number,
the flag as 0 or 1. -/
def operandTexts : Instr → List String
  | .setr i v => [toString i, toString v]
  | .setg i v => [toString i, toString v]
  | .setb i v => [toString i, toString v]
  | .psetbr i br => [toString i, brightnessText br]
  | .setrgbb i r g b br => [toString i, toString r, toString g, toString b, brightnessText br]
  | .pclr i => [toString i]
  | .getr i => [toString i]
  | .getg i => [toString i]
  | .getb i => [toString i]
  | .getbr i => [toString i]
  | .getbrv i => [toString i]
  | .setpix i r g b => [toString i, toString r, toString g, toString b]
  | .setpixBr i r g b br => [toString i, toString r, toString g, toString b, brightnessText br]
  | .setpixs r g b => [toString r, toString g, toString b]
  | .setpixsBr r g b br => [toString r, toString g, toString b, brightnessText br]
  | .setbrt br => [brightnessText br]
  | .clear => []
  | .getpix i => [toString i]
  | .showFrame => []
  | .setup d c => [toString d, toString c]
  | .setcoe f => [if f then "1" else "0"]
  | .teardown => []

/-- The command as a mnemonic and a comma-separated operand list (R74). -/
def commandText (i : Instr) : String :=
  match operandTexts i with
  | [] => mnemonicOf i
  | ops => mnemonicOf i ++ " " ++ String.intercalate ", " ops

end Sys2Proof.Machine
end

