-- ==== Sys2Proof/Tests/Slice0.lean ====
section
/-! SUPPORT. Tests. The expected words, responses and states are those of the spec's 95_test_vectors (S, V, P numbers below) or of
the rule a docstring names; the witnesses at the end show a state and operands that meet the hypotheses of each statement. -/

namespace Sys2Proof.Tests

open Sys2Proof Sys2Proof.Machine

/-! ### Small states -/

/-- The state a command answers, if it answers one. -/
def after (i : Instr) (s : State) : Option State :=
  match exec i s with
  | .next t => some t
  | _ => none

/-- The state a step answers, if it answers one. -/
def stepped (s : State) : Option State :=
  match step s with
  | .next t => some t
  | _ => none

/-- The response and the pixels after a command. -/
def respPix (i : Instr) (s : State) : Option (RespWord × List Pixel) := (after i s).map fun t => (t.resp, t.pix.toList)

/-- Reset with one pixel replaced. -/
def withPixel (k : PixelIndex) (p : Pixel) : State := { State.reset with pix := State.reset.pix.set k p }

/-- Reset with the provider's answers supplied. -/
def granting (answers : List Bool) : State := { State.reset with answers := answers }

/-- A ready block on pins 2 and 3. -/
def ready23 : State := { State.reset with ready := true, dataPin := some 2, clkPin := some 3 }

/-- A ready block in which a SHOW's frame stands at a position. -/
def atPosition (n : Fin Config.frameWrites) : State := { ready23 with tx := .sending .byShow n }

/-- Reset with one word on the command port. -/
def offered (w : CmdWord) : State := { State.reset with host := [.command w] }

/-- The line writes in a trace. -/
def writesOf (es : List Event) : List LineWrite :=
  es.filterMap fun e =>
    match e with
    | .set l v => some (l, v)
    | _ => none

/-- The bit stream of a trace as one number, its first bit the highest; `none` counts as a failed reading. -/
def streamOf (es : List Event) : Option Nat :=
  (bitstream (writesOf es)).foldl (fun acc b => acc.bind fun n => b.map fun v => 2 * n + v.toNat) (some 0)

/-- The pixels of reset with one record replaced. -/
def resetPixels (k : Nat) (p : Pixel) : List Pixel := (List.replicate 8 (⟨0, 0, 0, 200⟩ : Pixel)).set k p

/-! ### The well-formedness check refuses what does not fit a slot -/

theorem test_wf_slot_bounds :
    ¬ (Instr.setr 32768 0).WellFormed ∧ ¬ (Instr.setr (-32769) 0).WellFormed ∧
    (Instr.setr 32767 (-32768)).WellFormed ∧ (Instr.setcoe true).WellFormed ∧ Instr.clear.WellFormed := by decide

theorem test_wf_every_operand :
    ¬ (Instr.setg 0 40000).WellFormed ∧ ¬ (Instr.setb 0 (-40000)).WellFormed ∧ ¬ (Instr.psetbr 0 40000).WellFormed ∧
    ¬ (Instr.setrgbb 0 0 40000 0 0).WellFormed ∧ ¬ (Instr.setrgbb 0 0 0 0 40000).WellFormed ∧
    ¬ (Instr.pclr 40000).WellFormed ∧ ¬ (Instr.getr 40000).WellFormed ∧ ¬ (Instr.getg 40000).WellFormed ∧
    ¬ (Instr.getb 40000).WellFormed ∧ ¬ (Instr.getbr 40000).WellFormed ∧ ¬ (Instr.getbrv 40000).WellFormed ∧
    ¬ (Instr.setpix 0 0 0 40000).WellFormed ∧ ¬ (Instr.setpixBr 0 0 0 0 40000).WellFormed ∧
    ¬ (Instr.setpixs 40000 0 0).WellFormed ∧ ¬ (Instr.setpixsBr 0 0 0 (-40000)).WellFormed ∧
    ¬ (Instr.setbrt 40000).WellFormed ∧ ¬ (Instr.getpix 40000).WellFormed ∧ ¬ (Instr.setup 1 40000).WellFormed := by decide

/-! ### Decoding: words written out in V1, one at least for every constructor -/

theorem test_decode_pixel_setters :
    decode 0x1000000300C8000000000000 = .ok (.setr 3 200) ∧
    decode 0x1000FFFF0000000000000000 = .ok (.setr (-1) 0) ∧
    decode 0x110000000080000000000000 = .ok (.setg 0 128) ∧
    decode 0x1200000000FF000000000000 = .ok (.setb 0 255) ∧
    decode 0x1300000200000000000001F4 = .ok (.psetbr 2 500) ∧
    decode 0x1300000200000000000003E9 = .ok (.psetbr 2 1001) ∧
    decode 0x1400000700010002000300C8 = .ok (.setrgbb 7 1 2 3 200) ∧
    decode 0x150000040000000000000000 = .ok (.pclr 4) := by decide +kernel

theorem test_decode_getters :
    decode 0x180000000000000000000000 = .ok (.getr 0) ∧
    decode 0x190000000000000000000000 = .ok (.getg 0) ∧
    decode 0x1A0000000000000000000000 = .ok (.getb 0) ∧
    decode 0x1B0000070000000000000000 = .ok (.getbr 7) ∧
    decode 0x1C0000070000000000000000 = .ok (.getbrv 7) := by decide +kernel

theorem test_decode_strip :
    decode 0x2001000000FF0000000003E8 = .ok (.setpixBr 0 255 0 0 1000) ∧
    decode 0x2000000000FF000000000000 = .ok (.setpix 0 255 0 0) ∧
    decode 0x2001000000FF000000000000 = .ok (.setpixBr 0 255 0 0 0) ∧
    decode 0x2101000000010002000301F4 = .ok (.setpixsBr 1 2 3 500) ∧
    decode 0x21000000000A0014001E0000 = .ok (.setpixs 10 20 30) ∧
    decode 0x22000000000000000000FFFF = .ok (.setbrt (-1)) ∧
    decode 0x230000000000000000000000 = .ok .clear ∧
    decode 0x240000080000000000000000 = .ok (.getpix 8) := by decide +kernel

theorem test_decode_show_and_lifecycle :
    decode 0x300000000000000000000000 = .ok .showFrame ∧
    decode 0x40000011001B000000000000 = .ok (.setup 17 27) ∧
    decode 0x410000010000000000000000 = .ok (.setcoe true) ∧
    decode 0x410000000000000000000000 = .ok (.setcoe false) ∧
    decode 0x420000000000000000000000 = .ok .teardown := by decide +kernel

/-- V1, the extremes of the slots, and V2's legal look-alikes. -/
theorem test_decode_extremes :
    decode 0x2000FFFF80007FFF00000000 = .ok (.setpix (-1) (-32768) 32767 0) ∧
    decode 0x220000000000000000008000 = .ok (.setbrt (-32768)) ∧
    decode 0x210100000000000000000000 = .ok (.setpixsBr 0 0 0 0) ∧
    decode 0x140000070001000200030000 = .ok (.setrgbb 7 1 2 3 0) := by decide +kernel

/-- V2: the illegal words, by the item of R71 that holds. -/
theorem test_decode_illegal :
    ([0x000000000000000000000000, 0x160000000000000000000000, 0x1D0000000000000000000000, 0x250000000000000000000000,
      0x310000000000000000000000, 0x430000000000000000000000, 0xFF0000000000000000000000].map decode).all
        (· = .error .unknownOpcode) ∧
    ([0x300200000000000000000000, 0x308000000000000000000000].map decode).all (· = .error .reservedBits) ∧
    ([0x300100000000000000000000, 0x100100030005000000000000].map decode).all (· = .error .brightnessBit) ∧
    ([0x300000010000000000000000, 0x300000000000000000000001, 0x2000000000FF0000000003E8, 0x210000010001000200030000,
      0x2101000100010002000301F4, 0x100000030005000100000000, 0x180000000001000000000000, 0x220000010000000000000064,
      0x400000170018000100000000, 0x1300000200010000000001F4].map decode).all (· = .error .unusedSlot) ∧
    ([0x410000020000000000000000, 0x4100FFFF0000000000000000].map decode).all (· = .error .flagValue) := by
  decide +kernel

/-- The table's numbering of a word's bits is the word's own. -/
theorem test_decodeTableWord :
    decodeTableWord 96 0x1000000300C8000000000000 = some (.setr 3 200) ∧
    decodeTableWord 96 0x300100000000000000000000 = none := by decide +kernel

/-- R77, R78: the short forms and GETPIXS. -/
theorem test_short_forms :
    setupDefault = .setup 23 24 ∧ setupData 5 = .setup 5 24 ∧ setcoeDefault = .setcoe true ∧
    getpixs = [.getpix 0, .getpix 1, .getpix 2, .getpix 3, .getpix 4, .getpix 5, .getpix 6, .getpix 7] := by decide +kernel

/-- R74: the written form. -/
theorem test_command_text :
    commandText (.setpixBr 0 255 0 0 1000) = "SETPIX 0, 255, 0, 0, 1.000" ∧
    commandText (.setbrt (-1)) = "SETBRT -0.001" ∧ commandText .showFrame = "SHOW" := by decide +kernel

/-! ### Commands on one pixel: V3 -/

theorem test_setr :
    respPix (.setr 3 200) State.reset = some (0, resetPixels 3 ⟨200, 0, 0, 200⟩) ∧
    respPix (.setr 8 999) State.reset = some (0x03000000, State.reset.pix.toList) := by decide +kernel
theorem test_setr_bounds :
    respPix (.setr 3 256) State.reset = some (0x01000000, State.reset.pix.toList) ∧
    respPix (.setr 3 (-1)) State.reset = some (0x01000000, State.reset.pix.toList) := by decide +kernel
theorem test_setg : respPix (.setg 0 128) State.reset = some (0, resetPixels 0 ⟨0, 128, 0, 200⟩) := by decide +kernel
theorem test_setb : respPix (.setb 7 255) State.reset = some (0, resetPixels 7 ⟨0, 0, 255, 200⟩) := by decide +kernel
theorem test_psetbr :
    respPix (.psetbr 2 1000) State.reset = some (0, resetPixels 2 ⟨0, 0, 0, 1000⟩) ∧
    respPix (.psetbr 2 1001) State.reset = some (0x02000000, State.reset.pix.toList) ∧
    respPix (.psetbr 9 2000) State.reset = some (0x03000000, State.reset.pix.toList) := by decide +kernel
theorem test_setrgbb :
    respPix (.setrgbb 7 1 2 3 200) State.reset = some (0, resetPixels 7 ⟨1, 2, 3, 200⟩) ∧
    respPix (.setrgbb 0 256 0 0 2000) State.reset = some (0x01000000, State.reset.pix.toList) ∧
    respPix (.setrgbb 0 1 2 3 1500) State.reset = some (0x02000000, State.reset.pix.toList) := by decide +kernel
theorem test_pclr : respPix (.pclr 4) (withPixel 4 ⟨9, 8, 7, 500⟩) = some (0, resetPixels 4 ⟨0, 0, 0, 500⟩) := by
  decide +kernel
theorem test_getters :
    let s := withPixel 0 ⟨255, 0, 0, 1000⟩
    (after (.getr 0) s).map State.resp = some 0x000000FF ∧ (after (.getg 0) s).map State.resp = some 0 ∧
    (after (.getb 8) s).map State.resp = some 0x03000000 ∧ (after (.getbr 0) s).map State.resp = some 0x0000001F ∧
    (after (.getbrv 0) s).map State.resp = some 0x000003E8 := by decide +kernel
theorem test_getters_999 :
    let s := withPixel 7 ⟨1, 2, 3, 999⟩
    (after (.getb 7) s).map State.resp = some 3 ∧ (after (.getbr 7) s).map State.resp = some 0x0000001E ∧
    (after (.getbrv 7) s).map State.resp = some 0x000003E7 := by decide +kernel

/-! ### Commands on the strip: V4, V8 -/

theorem test_setpix :
    respPix (.setpix 6 1 1 1) (withPixel 6 ⟨0, 0, 0, 750⟩) = some (0, resetPixels 6 ⟨1, 1, 1, 750⟩) ∧
    respPix (.setpix 8 999 0 0) State.reset = some (0x03000000, State.reset.pix.toList) := by decide +kernel
theorem test_setpixBr :
    respPix (.setpixBr 0 255 0 0 1000) State.reset = some (0, resetPixels 0 ⟨255, 0, 0, 1000⟩) ∧
    respPix (.setpixBr 0 0 0 256 1000) State.reset = some (0x01000000, State.reset.pix.toList) ∧
    respPix (.setpixBr 0 0 0 0 1001) State.reset = some (0x02000000, State.reset.pix.toList) := by decide +kernel
theorem test_setpixs :
    respPix (.setpixs 10 20 30) (withPixel 2 ⟨0, 0, 0, 500⟩) =
      some (0, (List.replicate 8 (⟨10, 20, 30, 200⟩ : Pixel)).set 2 ⟨10, 20, 30, 500⟩) ∧
    respPix (.setpixs 1 2 256) State.reset = some (0x01000000, State.reset.pix.toList) := by decide +kernel
theorem test_setpixsBr :
    respPix (.setpixsBr 1 2 3 500) State.reset = some (0, List.replicate 8 ⟨1, 2, 3, 500⟩) ∧
    respPix (.setpixsBr 1 2 3 (-500)) State.reset = some (0x02000000, State.reset.pix.toList) := by decide +kernel
theorem test_setbrt :
    respPix (.setbrt 100) State.reset = some (0, List.replicate 8 ⟨0, 0, 0, 100⟩) ∧
    respPix (.setbrt (-1)) State.reset = some (0x02000000, State.reset.pix.toList) := by decide +kernel
theorem test_clear :
    respPix .clear (withPixel 2 ⟨1, 2, 3, 900⟩) = some (0, resetPixels 2 ⟨0, 0, 0, 900⟩) := by decide +kernel
theorem test_getpix :
    (after (.getpix 7) State.reset).map State.resp = some 7 ∧
    (after (.getpix 8) State.reset).map State.resp = some 0x03000000 ∧
    (after (.getpix (-1)) State.reset).map State.resp = some 0x03000000 := by decide +kernel

/-! ### The encoder and the frame: V5, V6 -/

theorem test_enc5 :
    [0, 1, 32, 33, 64, 65, 100, 199, 200, 225, 226, 250, 333, 500, 516, 517, 750, 967, 968, 999, 1000].map
        (fun n => (enc5 n).toNat) =
      [0, 0, 0, 1, 1, 2, 3, 6, 6, 6, 7, 7, 10, 15, 15, 16, 23, 29, 30, 30, 31] := by decide +kernel

theorem test_pixelWord :
    pixelWord ⟨255, 0, 0, 1000⟩ = 0xFF0000FF ∧ pixelWord ⟨0, 0, 0, 0⟩ = 0xE0000000 ∧
    pixelWord ⟨1, 2, 3, 500⟩ = 0xEF030201 ∧ pixelWord ⟨0x12, 0x34, 0x56, 999⟩ = 0xFE563412 ∧
    pixelWord ⟨0, 255, 0, 200⟩ = 0xE600FF00 ∧ header 226 = 0xE7 := by decide +kernel

/-- The buffer of V6. -/
def v6 : Vector Pixel Config.nPixels :=
  (State.reset.pix.set 0 ⟨255, 0, 0, 1000⟩).set 1 ⟨0x12, 0x34, 0x56, 999⟩

theorem test_frame_positions :
    [0, 1, 2, 63, 64, 65, 66, 67, 68, 86, 89, 113, 137, 158, 159, 160, 161, 182].map (fun n => (frameOf v6)[n]?) =
      [some (.dat, false), some (.clk, true), some (.clk, false), some (.clk, true), some (.clk, false),
       some (.dat, true), some (.clk, true), some (.clk, false), some (.dat, true), some (.dat, true),
       some (.dat, false), some (.dat, false), some (.dat, true), some (.dat, true), some (.clk, true),
       some (.clk, false), some (.dat, true), some (.dat, false)] ∧
    [185, 188, 191, 194, 832, 833, 834, 835, 904, 905, 906].map (fun n => (frameOf v6)[n]?) =
      [some (.dat, false), some (.dat, true), some (.dat, false), some (.dat, true), some (.clk, false),
       some (.dat, false), some (.clk, true), some (.clk, false), some (.clk, true), some (.clk, false), none] := by
  decide +kernel

/-- R18's table: phase, PIXI, BYTEI, BITI, CNT and SUB of some positions. -/
theorem test_positions :
    (phaseOf 0, subOf 0) = (.startFrame, .d) ∧ (phaseOf 64, cntOf 64, subOf 64) = (.startFrame, 31, .l) ∧
    (phaseOf 65, pixiOf 65, byteiOf 65, bitiOf 65, subOf 65) = (.pixel, 0, 0, 0, .d) ∧
    (phaseOf 832, pixiOf 832, byteiOf 832, bitiOf 832, subOf 832) = (.pixel, 7, 3, 7, .l) ∧
    (phaseOf 833, subOf 833) = (.endFrame, .d) ∧ (phaseOf 904, cntOf 904, subOf 904) = (.endFrame, 35, .h) := by
  decide +kernel

/-- A micro-step at the first data bit of pixel 0 of a default buffer: header `E6`, bit 7 (R153, R156). -/
theorem test_micro_step :
    (stepped (atPosition 65)).map (fun t => (t.traceRev, t.tx, t.sr, t.lvlDat)) =
      some ([.set .dat true], .sending .byShow 66, 0xE6, .one) := by decide +kernel

/-! ### SHOW and the lifecycle: V7, P1, P5 -/

/-- P1: the frame from reset, with the lazy setup: events and response. -/
theorem test_show_from_reset :
    (after .showFrame (granting [true, true])).map (fun t => (t.trace.take 5, t.trace.length, streamOf t.trace, t.resp)) =
      some ([.acq 23, .acq 24, .set .dat false, .set .clk true, .set .clk false], 908,
        some 0x00000000E6000000E6000000E6000000E6000000E6000000E6000000E6000000E6000000000000000, 0) := by
  decide +kernel

/-- P1: the end state. -/
theorem test_show_from_reset_state :
    (after .showFrame (granting [true, true])).map (fun t => (t.ready, t.dataPin, t.clkPin)) = some (true, some 23, some 24) ∧
    (after .showFrame (granting [true, true])).map (fun t => (t.lvlDat, t.lvlClk, t.tx)) = some (.zero, .zero, .idle) := by
  decide +kernel

/-- P5, its last line, and V7: a SHOW whose second acquisition is refused. -/
theorem test_show_mixed_and_refused :
    (after .showFrame { ready23 with
        pix := #v[⟨0, 0, 0, 999⟩, ⟨1, 2, 3, 500⟩, ⟨0, 0, 0, 0⟩, ⟨0, 0, 0, 200⟩, ⟨0, 0, 0, 200⟩, ⟨0, 0, 0, 200⟩, ⟨0, 0, 0, 200⟩,
          ⟨255, 255, 255, 1000⟩] }).map (fun t => (t.trace.length, streamOf t.trace)) =
      some (906, some 0x00000000FE000000EF030201E0000000E6000000E6000000E6000000E6000000FFFFFFFF000000000) ∧
    (after .showFrame (granting [true, false])).map (fun t => (t.trace, t.resp, t.ready, t.dataPin)) =
      some ([.acq 23, .acq 24], 0x05000000, false, none) := by decide +kernel

theorem test_setup :
    (after (.setup 27 1) (granting [true, true])).map (fun t => (t.trace, t.resp, t.ready, t.dataPin, t.clkPin)) =
      some ([.acq 27, .acq 1], 0, true, some 27, some 1) ∧
    (after (.setup 2 3) (granting [false])).map (fun t => (t.trace, t.resp, t.ready)) =
      some ([.acq 2], 0x05000000, false) := by decide +kernel

/-- V7: a re-setup that is refused keeps the old pins, and bad pins ask nothing (S6). -/
theorem test_setup_again :
    (after (.setup 4 5) { ready23 with answers := [true, false] }).map (fun t => (t.trace, t.resp, t.ready, t.dataPin)) =
      some ([.acq 4, .acq 5], 0x05000000, true, some 2) ∧
    [Instr.setup 5 5, .setup 0 24, .setup 23 28, .setup (-1) 5, .setup 40 40].map (fun i =>
        (after i ready23).map fun t => (t.trace, t.resp, t.clkPin)) =
      List.replicate 5 (some ([], 0x04000000, some 3)) := by decide +kernel

theorem test_setcoe :
    (after (.setcoe true) State.reset).map (fun t => (t.coe, t.trace, t.resp)) = some (true, [], 0) ∧
    (after (.setcoe false) { State.reset with coe := true }).map State.coe = some false := by decide +kernel

/-- V7: TEARDOWN with COE = 0 on a ready block, and with COE = 1 on an unready one the provider refuses (P7). -/
theorem test_teardown :
    (after .teardown ready23).map (fun t => (t.trace, t.resp, t.life)) = some ([.rel 2, .rel 3], 0, .released) ∧
    (after .teardown { granting [false] with coe := true }).map (fun t => (t.trace, t.resp, t.life, t.ready)) =
      some ([.acq 23], 0x05000000, .released, false) := by decide +kernel

/-- P3, its last line: one dark frame, then the two releases. -/
theorem test_teardown_dark_frame :
    (after .teardown { ready23 with coe := true, pix := Vector.replicate 8 ⟨1, 2, 3, 500⟩ }).map (fun t =>
        (t.trace.drop 906, streamOf t.trace, t.pix.toList, t.life, t.lvlClk)) =
      some ([.rel 2, .rel 3],
        some 0x00000000EF000000EF000000EF000000EF000000EF000000EF000000EF000000EF000000000000000,
        List.replicate 8 ⟨0, 0, 0, 500⟩, .released, .zero) := by decide +kernel

/-! ### The step -/

/-- V2: an illegal word is answered and changes nothing else; V3: a legal one runs. -/
theorem test_step_words :
    stepped (offered 0x300100000000000000000000) = some { State.reset with resp := 0x07000000 } ∧
    stepped (State.reset.withFetchWord 96 0x1000000300C8000000000000) =
      some (withPixel 3 ⟨200, 0, 0, 200⟩) := by decide +kernel

/-- R231, R185, U6: an idle block waits; a released one takes nothing, until a reset. -/
theorem test_step_idle_released :
    stepped State.reset = some State.reset ∧
    stepped { offered 0x300000000000000000000000 with life := .released } = none ∧
    stepped { State.reset with life := .released, ready := true, host := [.reset 0] } = some State.reset := by decide +kernel

/-- R232: a reset cuts a SHOW after 100 line writes: the trace of the cut frame, then the reset state. -/
theorem test_reset_cuts_frame :
    (after .showFrame { ready23 with host := [.reset 100] }).map (fun t => (t.trace.length, t.tx)) =
      some (100, .sending .byShow 100) ∧
    ((after .showFrame { ready23 with host := [.reset 100] }).bind stepped).map (fun t => { t with draws := 0 }) =
      some State.reset := by decide +kernel

/-! ### Witnesses: states and operands that meet the hypotheses of the statements, each clause at a boundary of its range -/

theorem uncut_of_no_input {s : State} (h : s.host = []) : FrameUncut s := by
  intro k rest hk; rw [h] at hk; cases hk

theorem uncut_of_late_reset {s : State} (h : s.host = [.reset 906]) : FrameUncut s := by
  intro k rest hk; rw [h] at hk; cases hk; decide

/-- The two conditions of ShiftCoherent at the one position a state is at. -/
theorem coherent_at {s : State} {owner : FrameOwner} {n : Fin Config.frameWrites} (ht : s.tx = .sending owner n)
    (h : phaseOf n = .pixel →
      (pixelOffset n % Config.pixelWrites ≠ 0 → s.ebuf = encodePixel s.pix[pixiOf n]) ∧
      (pixelOffset n % Config.byteWrites ≠ 0 → s.sr = s.ebuf[byteiOf n] <<< bitiOf n)) : ShiftCoherent s := by
  intro o m hm
  rw [ht] at hm
  cases hm
  exact h

/-- Inside the header byte of pixel 0: two bits of `E6` sent. -/
def insidePixel : State := { atPosition 71 with ebuf := #v[0xE6, 0, 0, 0], sr := 0x98 }

/-- A TEARDOWN's frame at its first position. -/
def tearingDown : State := { ready23 with coe := true, tx := .sending .byTeardown 0 }

theorem witness_DecodeOfEncode :
    (Instr.setrgbb (-32768) 32767 0 255 1000).WellFormed ∧ (Instr.setpixsBr 0 256 (-1) (-32768)).WellFormed ∧
    Instr.teardown.WellFormed := by decide

theorem witness_EncodeOfDecode :
    decode 0x2000FFFF80007FFF00000000 = .ok (.setpix (-1) (-32768) 32767 0) := by decide +kernel

theorem witness_LegalWordsMatchExactlyOneRow :
    ∃ r ∈ opcodeTable, r.Matches 0x2001000000FF0000000003E8 = true ∧ r.opcode = .setpix := by decide +kernel

theorem witness_IllegalWordsAreOnlyAnswered :
    (∀ w, Takes (offered w) ∧ (offered w).host = .command w :: []) ∧
    IllegalWord 0xFF0000000000000000000000 ∧ IllegalWord 0x308000000000000000000000 ∧
    IllegalWord 0x100100030005000000000000 ∧ IllegalWord 0x300000000000000000000001 ∧
    IllegalWord 0x410000020000000000000000 :=
  ⟨fun _ => ⟨⟨rfl, rfl⟩, rfl⟩, .inl (by decide +kernel), .inr (.inl (by decide +kernel)),
    .inr (.inr (.inl (by decide +kernel))), .inr (.inr (.inr (.inl ⟨.showFrame, by decide +kernel, by decide +kernel⟩))),
    .inr (.inr (.inr (.inr (by decide +kernel))))⟩

theorem witness_StepRunsTheDecodedCommand :
    Takes (offered 0x300000000000000000000000) ∧
    (offered 0x300000000000000000000000).host = .command 0x300000000000000000000000 :: [] ∧
    decode 0x300000000000000000000000 = .ok .showFrame := by decide +kernel

theorem witness_IdleBlockDoesNothing : Takes ready23 ∧ ready23.host = [] := by decide

theorem witness_ResetComesInAnyState :
    ({ ready23 with host := [.reset 0] } : State).tx = .idle ∧
    ({ atPosition 905 with host := [.reset 905] } : State).tx = .sending .byShow 905 ∧
    (905 : Nat) ≤ (905 : Fin Config.frameWrites).val ∧
    ({ atPosition 0 with host := [.reset 0] } : State).tx = .sending .byShow 0 := by decide

theorem witness_ReleasedBlockTakesNothing :
    (∀ k rest, ({ offered 0x300000000000000000000000 with life := .released } : State).host ≠ .reset k :: rest) ∧
    ({ offered 0x300000000000000000000000 with life := .released } : State).life = .released ∧
    ({ offered 0x300000000000000000000000 with life := .released } : State).tx = .idle ∧
    (atPosition 905).life = .alive ∧ (atPosition 905).tx = .sending .byShow 905 :=
  ⟨fun k rest h => by simp [offered] at h, rfl, rfl, rfl, rfl⟩

/-- For the statements on commands on one pixel and on the strip: the block takes commands, and the operand ranges' ends. -/
theorem witness_takes : Takes State.reset ∧ Takes ready23 := by decide

theorem witness_ColourSettersWriteOneChannel :
    Takes State.reset ∧ ((7 : PixelIndex).val = 7 ∧ (255 : Byte).toNat = 255) ∧
    (¬ (0 ≤ (-1 : Int) ∧ (-1 : Int) ≤ 7) ∧ ¬ (0 ≤ (8 : Int) ∧ (8 : Int) ≤ 7)) ∧
    (0 ≤ (7 : Int) ∧ (7 : Int) ≤ 7) ∧ ¬ (0 ≤ (256 : Int) ∧ (256 : Int) ≤ 255) ∧ ¬ (0 ≤ (-1 : Int) ∧ (-1 : Int) ≤ 255) := by
  decide

theorem witness_PsetbrWritesBrightness :
    Takes State.reset ∧ (1000 : Nat) ≤ 1000 ∧ ¬ (0 ≤ (8 : Int) ∧ (8 : Int) ≤ 7) ∧ (0 ≤ (0 : Int) ∧ (0 : Int) ≤ 7) ∧
    ¬ (0 ≤ (1001 : Int) ∧ (1001 : Int) ≤ 1000) ∧ ¬ (0 ≤ (-1 : Int) ∧ (-1 : Int) ≤ 1000) := by decide

theorem witness_SetrgbbIsAllOrNothing :
    Takes State.reset ∧ (1000 : Nat) ≤ 1000 ∧ ¬ (0 ≤ (-1 : Int) ∧ (-1 : Int) ≤ 7) ∧ (0 ≤ (7 : Int) ∧ (7 : Int) ≤ 7) ∧
    ¬ ((0 ≤ (255 : Int) ∧ (255 : Int) ≤ 255) ∧ (0 ≤ (256 : Int) ∧ (256 : Int) ≤ 255) ∧ (0 ≤ (0 : Int) ∧ (0 : Int) ≤ 255)) ∧
    ((0 ≤ (255 : Int) ∧ (255 : Int) ≤ 255) ∧ (0 ≤ (0 : Int) ∧ (0 : Int) ≤ 255) ∧ (0 ≤ (1 : Int) ∧ (1 : Int) ≤ 255)) ∧
    ¬ (0 ≤ (1001 : Int) ∧ (1001 : Int) ≤ 1000) := by decide

theorem witness_PclrKeepsBrightness : Takes State.reset ∧ ¬ (0 ≤ (8 : Int) ∧ (8 : Int) ≤ 7) := by decide

theorem witness_GettersAnswerTheField :
    Takes (withPixel 7 ⟨255, 255, 255, 1000⟩) ∧ (withPixel 7 ⟨255, 255, 255, 1000⟩).pix[7].brt ≤ 1000 ∧
    ¬ (0 ≤ (8 : Int) ∧ (8 : Int) ≤ 7) := by decide

/-- Two states with the same pixels that differ in READY and the pins. -/
theorem witness_ReadingHasNoSideEffect :
    Takes State.reset ∧ isGetter (.getbrv 8) = true ∧ isGetter (.getpix 7) = true ∧ Takes ready23 ∧
    State.reset.pix = ready23.pix ∧ State.reset.ready ≠ ready23.ready := by decide

theorem witness_IndexIsTestedFirst :
    (Takes State.reset ∧ indexOperand (.setpixBr 8 256 0 0 1001) = some 8 ∧ ¬ (0 ≤ (8 : Int) ∧ (8 : Int) ≤ 7)) ∧
    (indexOperand (.setbrt 1001) = none ∧
      exec (.setbrt 1001) State.reset = .next { State.reset with resp := 0x02000000 } ∧ State.reset.tx = .idle) :=
  ⟨by decide, rfl, rfl, rfl⟩

theorem witness_ColourOutOfRangeChangesNothing :
    (Takes State.reset ∧ (∀ x, indexOperand (.setrgbb 7 0 255 256 1001) = some x → 0 ≤ x ∧ x ≤ 7) ∧
      ∃ v ∈ colorOperands (.setrgbb 7 0 255 256 1001), v < 0 ∨ v > 255) ∧
    ((∀ x, indexOperand (.setpixs (-1) 0 0) = some x → 0 ≤ x ∧ x ≤ 7) ∧
      ∃ v ∈ colorOperands (.setpixs (-1) 0 0), v < 0 ∨ v > 255) := by
  refine ⟨⟨⟨rfl, rfl⟩, fun x h => ?_, 256, by decide, by decide⟩, fun x h => ?_, -1, by decide, by decide⟩ <;> cases h
  exact ⟨by decide, by decide⟩

theorem witness_BrightnessOutOfRangeChangesNothing :
    (Takes State.reset ∧ (∀ x, indexOperand (.setpixBr 0 255 0 0 1001) = some x → 0 ≤ x ∧ x ≤ 7) ∧
      (∀ v ∈ colorOperands (.setpixBr 0 255 0 0 1001), 0 ≤ v ∧ v ≤ 255) ∧
      brightnessOperand (.setpixBr 0 255 0 0 1001) = some 1001 ∧ brightnessOperand (.setbrt (-1)) = some (-1)) ∧
    (exec (.setpixBr 7 255 0 0 (-1)) State.reset = .next { State.reset with resp := 0x02000000 } ∧
      State.reset.tx = .idle ∧ respStatus 0x02000000 = 2) := by
  refine ⟨⟨⟨rfl, rfl⟩, fun x h => ?_, by decide, rfl, rfl⟩, rfl, rfl, by decide⟩
  cases h
  exact ⟨by decide, by decide⟩

theorem witness_SetpixWritesOnePixel : Takes State.reset ∧ (1000 : Nat) ≤ 1000 ∧ (0 : Nat) ≤ 1000 := by decide
theorem witness_SetpixReadsBack : Takes ready23 ∧ (1000 : Nat) ≤ 1000 := by decide
theorem witness_SetpixsWritesEveryPixel : Takes State.reset ∧ (1000 : Nat) ≤ 1000 := by decide
theorem witness_SetpixsChangesAllOrNone : Takes (withPixel 3 ⟨1, 2, 3, 1000⟩) := by decide
theorem witness_SetbrtWritesEveryPixel :
    Takes State.reset ∧ (1000 : Nat) ≤ 1000 ∧ ¬ (0 ≤ (1001 : Int) ∧ (1001 : Int) ≤ 1000) ∧
    ¬ (0 ≤ (-1 : Int) ∧ (-1 : Int) ≤ 1000) := by decide
theorem witness_ClearKeepsEveryBrightness : Takes (withPixel 2 ⟨1, 2, 3, 900⟩) := by decide
theorem witness_GetpixAnswersTheIndex : Takes State.reset ∧ ¬ (0 ≤ (8 : Int) ∧ (8 : Int) ≤ 7) := by decide
theorem witness_BufferCommandsWorkOnTheBufferOnly :
    Takes ready23 ∧ isBufferCommand (.setpixs 300 0 0) = true ∧ isBufferCommand (.getr 7) = true ∧ Takes State.reset ∧
    ready23.pix = State.reset.pix ∧ ready23.ready ≠ State.reset.ready := by decide

theorem witness_EncodedBrightnessIsTheFloor : (1000 : Nat) ≤ 1000 ∧ (0 : Nat) ≤ 1000 := by decide

/-- A TEARDOWN's frame at its last position, on held handles. -/
def lastOfTeardown : State := { ready23 with coe := true, tx := .sending .byTeardown 905 }

/-- The micro-step at the first position, inside a byte, and at the last position of a SHOW's and of a TEARDOWN's frame. -/
theorem witness_MicroStepMakesOneLineWrite :
    ((atPosition 0).tx = .sending .byShow 0 ∧ ShiftCoherent (atPosition 0) ∧ resetDue (atPosition 0) = false) ∧
    (insidePixel.tx = .sending .byShow 71 ∧ ShiftCoherent insidePixel ∧ resetDue insidePixel = false) ∧
    ((atPosition 905).tx = .sending .byShow 905 ∧ ShiftCoherent (atPosition 905) ∧ resetDue (atPosition 905) = false) ∧
    (lastOfTeardown.tx = .sending .byTeardown 905 ∧ ShiftCoherent lastOfTeardown ∧ resetDue lastOfTeardown = false ∧
      lastOfTeardown.ready = true ∧ lastOfTeardown.dataPin = some 2 ∧ lastOfTeardown.clkPin = some 3) := by
  refine ⟨⟨rfl, coherent_at rfl fun h => absurd h (by decide), rfl⟩, ⟨rfl, coherent_at rfl fun _ => ?_, rfl⟩,
    ⟨rfl, coherent_at rfl fun h => absurd h (by decide), rfl⟩,
    ⟨rfl, coherent_at rfl fun h => absurd h (by decide), rfl, rfl, rfl, rfl⟩⟩
  exact ⟨fun _ => by decide +kernel, fun _ => by decide +kernel⟩

theorem witness_BigStepAndMicroStepsAgree :
    (({ atPosition 0 with host := [.reset 906] } : State).tx = .sending .byShow 0 ∧
      FrameUncut { atPosition 0 with host := [.reset 906] }) ∧
    (tearingDown.tx = .sending .byTeardown 0 ∧ FrameUncut tearingDown) ∧ (905 : Nat) < 906 :=
  ⟨⟨rfl, uncut_of_late_reset rfl⟩, ⟨rfl, uncut_of_no_input rfl⟩, by decide⟩

theorem witness_EveryFrameEnds :
    (tearingDown.tx = .sending .byTeardown 0 ∧ FrameUncut tearingDown) ∧
    ((atPosition 905).tx = .sending .byShow 905 ∧ FrameUncut (atPosition 905)) :=
  ⟨⟨rfl, uncut_of_no_input rfl⟩, rfl, uncut_of_no_input rfl⟩

theorem witness_ShowSendsTheFrame : Takes ready23 ∧ ready23.ready = true ∧ FrameUncut ready23 :=
  ⟨by decide, rfl, uncut_of_no_input rfl⟩

theorem witness_ShowSetsUpLazily :
    (∀ answers, Takes (granting answers) ∧ (granting answers).ready = false ∧ FrameUncut (granting answers)) ∧
    (answerAt (granting [true, true]) 0 = true ∧ answerAt (granting [true, true]) 1 = true) ∧
    (answerAt (granting [true, false]) 0 = true ∧ answerAt (granting [true, false]) 1 = false) ∧
    answerAt (granting [false]) 0 = false :=
  ⟨fun _ => ⟨⟨rfl, rfl⟩, rfl, uncut_of_no_input rfl⟩, ⟨rfl, rfl⟩, ⟨rfl, rfl⟩, rfl⟩

theorem witness_ShowDependsOnThePixelsOnly :
    ∃ s' u', ready23.pix = ({ ready23 with dataPin := some 17, coe := true } : State).pix ∧ ready23.ready = true ∧
      ({ ready23 with dataPin := some 17, coe := true } : State).ready = true ∧ FrameUncut ready23 ∧
      FrameUncut { ready23 with dataPin := some 17, coe := true } ∧ exec .showFrame ready23 = .next s' ∧
      exec .showFrame { ready23 with dataPin := some 17, coe := true } = .next u' :=
  ⟨_, _, rfl, rfl, rfl, uncut_of_no_input rfl, uncut_of_no_input rfl, exec_showFrame_next ⟨rfl, rfl⟩,
    exec_showFrame_next ⟨rfl, rfl⟩⟩

theorem witness_SetupAssignsThePins :
    Takes (granting [true, true]) ∧ (1 ≤ 1 ∧ 1 ≤ 27) ∧ (1 ≤ 27 ∧ 27 ≤ 27) ∧ 1 ≠ 27 ∧
    answerAt (granting [true, true]) 0 = true ∧ answerAt (granting [true, true]) 1 = true :=
  ⟨⟨rfl, rfl⟩, by decide, by decide, by decide, rfl, rfl⟩

theorem witness_SetupRejectsBadPins :
    Takes ready23 ∧ ¬ (1 ≤ (0 : Int) ∧ (0 : Int) ≤ 27) ∧ ¬ (1 ≤ (28 : Int) ∧ (28 : Int) ≤ 27) ∧ (5 : Int) = 5 := by decide

theorem witness_SetupRefusedChangesNoRegister :
    (∀ answers, Takes (granting answers)) ∧ (1 ≤ 27 ∧ 27 ≤ 27) ∧ (1 ≤ 1 ∧ 1 ≤ 27) ∧ 27 ≠ 1 ∧
    answerAt (granting [false]) 0 = false ∧
    (answerAt (granting [true, false]) 0 = true ∧ answerAt (granting [true, false]) 1 = false) :=
  ⟨fun _ => ⟨rfl, rfl⟩, by decide, by decide, by decide, rfl, rfl, rfl⟩

theorem witness_SetcoeWritesTheFlagOnly : Takes State.reset := by decide

theorem witness_TeardownWithoutClearOnExit :
    (Takes State.reset ∧ State.reset.coe = false ∧ State.reset.ready = false) ∧
    (Takes ready23 ∧ ready23.coe = false ∧ ready23.ready = true ∧ ready23.dataPin = some 2 ∧ ready23.clkPin = some 3) := by
  decide

theorem witness_TeardownWithClearOnExit :
    (Takes { ready23 with coe := true } ∧ ({ ready23 with coe := true } : State).coe = true ∧
      FrameUncut { ready23 with coe := true } ∧ ready23.ready = true ∧ ready23.dataPin = some 2 ∧ ready23.clkPin = some 3) ∧
    (∀ answers, Takes { granting answers with coe := true } ∧ FrameUncut { granting answers with coe := true } ∧
      ({ granting answers with coe := true } : State).ready = false) ∧
    (answerAt { granting [true, true] with coe := true } 0 = true ∧
      answerAt { granting [true, true] with coe := true } 1 = true) ∧
    (answerAt { granting [true, false] with coe := true } 0 = true ∧
      answerAt { granting [true, false] with coe := true } 1 = false) ∧
    answerAt { granting [false] with coe := true } 0 = false :=
  ⟨⟨⟨rfl, rfl⟩, rfl, uncut_of_no_input rfl, rfl, rfl, rfl⟩, fun _ => ⟨⟨rfl, rfl⟩, uncut_of_no_input rfl, rfl⟩, ⟨rfl, rfl⟩,
    ⟨rfl, rfl⟩, rfl⟩

/-- A state in the middle of a frame meets the invariant, and a step from it answers a next state. -/
theorem witness_EveryStepKeepsTheInvariant : Inv insidePixel ∧ ∃ t, step insidePixel = .next t := by
  refine ⟨⟨?_, fun _ => ⟨2, 3, rfl, rfl, by decide, by decide, by decide⟩, ?_, fun _ _ _ => ⟨rfl, rfl⟩, ?_,
    witness_MicroStepMakesOneLineWrite.2.1.2.1⟩, ⟨_, rfl⟩⟩
  · unfold PixelsInRange; decide +kernel
  · intro h; cases h
  · intro n h; cases h

/-- A state before the frame's last line write meets the level invariant, and so does an idle one with unknown levels. -/
theorem witness_LevelsBetweenCommands :
    (LineLevels { atPosition 905 with lvlDat := .zero, lvlClk := .one } ∧
      ∃ t, step { atPosition 905 with lvlDat := .zero, lvlClk := .one } = .next t) ∧
    LineLevels ready23 ∧ step ready23 = .next ready23 :=
  ⟨⟨⟨fun h => (by cases h), fun _ _ _ _ => rfl⟩, _, rfl⟩,
    ⟨fun _ => .inl ⟨rfl, rfl⟩, fun _ _ h => (by cases h)⟩, rfl⟩

theorem witness_ReadyIsNeverCleared :
    step ready23 = .next ready23 ∧ resetDue ready23 = false ∧ ready23.ready = true := ⟨rfl, rfl, rfl⟩

theorem witness_OnlySetcoeWritesCoe :
    (exec (.getpix 7) ready23 = .next { ready23 with resp := 7 } ∧ ∀ f, Instr.getpix 7 ≠ .setcoe f) ∧
    (tearingDown.tx = .sending .byTeardown 0 ∧ resetDue tearingDown = false ∧ ∃ t, step tearingDown = .next t) :=
  ⟨⟨rfl, fun f h => by cases h⟩, rfl, rfl, _, rfl⟩

/-- A SETUP and a lazy setup that change the pin registers, and the micro-step of a frame. -/
theorem witness_OnlySetupWritesThePins :
    (∃ t, exec (.setup 1 27) (granting [true, true]) = .next t ∧ t.dataPin ≠ none) ∧
    (∃ t, exec .showFrame (granting [true, true]) = .next t ∧ t.clkPin ≠ none) ∧
    (∃ t, exec .teardown { granting [true, true] with coe := true } = .next t ∧ t.clkPin ≠ none) ∧
    (tearingDown.tx = .sending .byTeardown 0 ∧ resetDue tearingDown = false ∧ ∃ t, step tearingDown = .next t) :=
  ⟨⟨_, exec_setup_next ⟨rfl, rfl⟩ 1 27, by decide +kernel⟩, ⟨_, exec_showFrame_next ⟨rfl, rfl⟩, by decide +kernel⟩,
    ⟨_, exec_teardown_next ⟨rfl, rfl⟩, by decide +kernel⟩, rfl, rfl, _, rfl⟩

theorem witness_WhichCommandWritesWhichField :
    (∃ t, exec (.setpix 7 1 2 3) State.reset = .next t) ∧ brightnessOperand (.setpix 7 1 2 3) = none ∧
    (∃ t, exec (.psetbr 7 1000) State.reset = .next t) ∧ colorOperands (.psetbr 7 1000) = [] ∧
    (∀ x, Instr.psetbr 7 1000 ≠ .pclr x) :=
  ⟨⟨_, rfl⟩, rfl, ⟨_, rfl⟩, rfl, fun x h => by cases h⟩

theorem witness_OnlyTeardownEndsTheLife :
    ((∃ t, exec .showFrame ready23 = .next t) ∧ Instr.showFrame ≠ .teardown) ∧
    ((atPosition 905).tx = .sending .byShow 905 ∧ resetDue (atPosition 905) = false ∧ ∃ t, step (atPosition 905) = .next t) ∧
    (tearingDown.tx = .sending .byTeardown 0 ∧ resetDue tearingDown = false ∧ (∃ t, step tearingDown = .next t) ∧
      (0 : Fin Config.frameWrites).val < 905) :=
  ⟨⟨⟨_, exec_showFrame_next ⟨rfl, rfl⟩⟩, fun h => by cases h⟩, ⟨rfl, rfl, _, rfl⟩, rfl, rfl, ⟨_, rfl⟩, by decide⟩

theorem witness_TraceOnlyGrows : ∃ t, exec .teardown ready23 = .next t ∧ Event.rel 2 ∈ t.trace :=
  ⟨_, exec_teardown_next ⟨rfl, rfl⟩, by decide +kernel⟩

theorem witness_ErrorsCarryNoValue :
    ∃ t, exec .showFrame (granting [false]) = .next t ∧ t.tx = .idle ∧ respStatus t.resp ≠ 0 :=
  ⟨_, exec_showFrame_next ⟨rfl, rfl⟩, by decide +kernel, by decide +kernel⟩

theorem witness_EventCounts :
    (∃ t, exec (.setup 1 27) (granting [true, true]) = .next t ∧ respStatus t.resp = 0) ∧
    (∃ t, exec (.setup 5 5) (granting []) = .next t ∧ respStatus t.resp = 4) ∧
    (∃ t, exec (.setup 1 27) (granting [true, false]) = .next t ∧ respStatus t.resp = 5) ∧
    (∃ t, exec .showFrame (granting [true, true]) = .next t ∧ respStatus t.resp = 0) ∧
    (∃ t, exec .teardown ready23 = .next t ∧ respStatus t.resp = 0) ∧ ReadyHasPins ready23 ∧
    (∀ answers, FrameUncut (granting answers)) ∧ FrameUncut ready23 :=
  ⟨⟨_, exec_setup_next ⟨rfl, rfl⟩ 1 27, by decide +kernel⟩, ⟨_, exec_setup_next ⟨rfl, rfl⟩ 5 5, by decide +kernel⟩,
    ⟨_, exec_setup_next ⟨rfl, rfl⟩ 1 27, by decide +kernel⟩, ⟨_, exec_showFrame_next ⟨rfl, rfl⟩, by decide +kernel⟩,
    ⟨_, exec_teardown_next ⟨rfl, rfl⟩, by decide +kernel⟩,
    fun _ => ⟨2, 3, rfl, rfl, by decide, by decide, by decide⟩, fun _ => uncut_of_no_input rfl, uncut_of_no_input rfl⟩

end Sys2Proof.Tests
end

section
/-! PROOFS about the state (10_state.md): what every step of the machine keeps, and which command writes which register. First the
facts that all of these proofs share: the fields a shared operation leaves alone, and what one command can do. -/

namespace Sys2Proof.Machine

open Sys2Proof

/-! ### What using up the provider's answers leaves alone (R217) -/

@[simp] theorem useAnswers_tx (k : Nat) (s : State) : (useAnswers k s).tx = s.tx := rfl
@[simp] theorem useAnswers_lvlDat (k : Nat) (s : State) : (useAnswers k s).lvlDat = s.lvlDat := rfl
@[simp] theorem useAnswers_lvlClk (k : Nat) (s : State) : (useAnswers k s).lvlClk = s.lvlClk := rfl

/-! ### What the end of a command leaves alone (R150, R184) -/

@[simp] theorem finish_pix (owner : FrameOwner) (err : Option Err) (s : State) : (finish owner err s).pix = s.pix := by
  obtain ⟨_, _, _, _, h⟩ := finish_spec owner err s; rw [h]
@[simp] theorem finish_ready (owner : FrameOwner) (err : Option Err) (s : State) : (finish owner err s).ready = s.ready := by
  obtain ⟨_, _, _, _, h⟩ := finish_spec owner err s; rw [h]
@[simp] theorem finish_coe (owner : FrameOwner) (err : Option Err) (s : State) : (finish owner err s).coe = s.coe := by
  obtain ⟨_, _, _, _, h⟩ := finish_spec owner err s; rw [h]
@[simp] theorem finish_dataPin (owner : FrameOwner) (err : Option Err) (s : State) :
    (finish owner err s).dataPin = s.dataPin := by
  obtain ⟨_, _, _, _, h⟩ := finish_spec owner err s; rw [h]
@[simp] theorem finish_clkPin (owner : FrameOwner) (err : Option Err) (s : State) :
    (finish owner err s).clkPin = s.clkPin := by
  obtain ⟨_, _, _, _, h⟩ := finish_spec owner err s; rw [h]
@[simp] theorem finish_lvlDat (owner : FrameOwner) (err : Option Err) (s : State) :
    (finish owner err s).lvlDat = s.lvlDat := by
  obtain ⟨_, _, _, _, h⟩ := finish_spec owner err s; rw [h]
@[simp] theorem finish_lvlClk (owner : FrameOwner) (err : Option Err) (s : State) :
    (finish owner err s).lvlClk = s.lvlClk := by
  obtain ⟨_, _, _, _, h⟩ := finish_spec owner err s; rw [h]
@[simp] theorem finish_byShow_life (err : Option Err) (s : State) : (finish .byShow err s).life = s.life := by
  obtain ⟨_, _, _, _, h⟩ := finish_spec .byShow err s; rw [h]

/-! ### The registers that only commands write -/

/-- The pixel buffer, READY, COE and the pin registers are the same in both states. -/
structure SameControl (s t : State) : Prop where
  pix : t.pix = s.pix
  ready : t.ready = s.ready
  coe : t.coe = s.coe
  dataPin : t.dataPin = s.dataPin
  clkPin : t.clkPin = s.clkPin

theorem SameControl.trans {s t u : State} (h : SameControl s t) (k : SameControl t u) : SameControl s u :=
  ⟨k.pix.trans h.pix, k.ready.trans h.ready, k.coe.trans h.coe, k.dataPin.trans h.dataPin, k.clkPin.trans h.clkPin⟩

theorem sameControl_written (s : State) (w : LineWrite) : SameControl s (s.written w) := by
  obtain ⟨hready, hcoe, hdata, hclk, -⟩ := written_control s w
  exact ⟨written_pix s w, hready, hcoe, hdata, hclk⟩

theorem sameControl_finish (owner : FrameOwner) (err : Option Err) (s : State) : SameControl s (finish owner err s) :=
  ⟨finish_pix .., finish_ready .., finish_coe .., finish_dataPin .., finish_clkPin ..⟩

/-- A micro-step writes none of these registers, the last one of a TEARDOWN's frame included (R51, R156). -/
theorem sameControl_txStep {s : State} {owner : FrameOwner} {n : Fin Config.frameWrites} (ht : s.tx = .sending owner n) :
    SameControl s (txStep s) := by
  obtain ⟨w, ebuf, sr, ⟨h, e⟩ | ⟨-, e⟩⟩ := txStep_shape ht
  · rw [e]
    exact (sameControl_written s w).trans ⟨rfl, rfl, rfl, rfl, rfl⟩
  · rw [e]
    exact (sameControl_written s w).trans
      (.trans (t := (s.written w).toIdle) ⟨rfl, rfl, rfl, rfl, rfl⟩ (sameControl_finish ..))

/-- SHOW's work writes none of these registers, but for a lazy setup on a block that was not ready (R150, R182). -/
theorem sendFrame_control (owner : FrameOwner) (s : State) :
    SameControl s (sendFrame owner s) ∨ s.ready = false ∧ SameControl s.lazySetup (sendFrame owner s) := by
  refine sendFrame_keeps (P := fun t => SameControl s t ∨ s.ready = false ∧ SameControl s.lazySetup t) owner s ?ready ?lazily
    ?refused ?refused' ?micro
  case ready => exact fun _ => .inl ⟨rfl, rfl, rfl, rfl, rfl⟩
  case lazily => exact fun hr => .inr ⟨hr, rfl, rfl, rfl, rfl, rfl⟩
  case refused =>
    exact fun _ => .inl (.trans (t := (useAnswers 1 s).emit (.acq 23)) ⟨rfl, rfl, rfl, rfl, rfl⟩ (sameControl_finish ..))
  case refused' =>
    exact fun _ => .inl (.trans (t := ((useAnswers 2 s).emit (.acq 23)).emit (.acq 24)) ⟨rfl, rfl, rfl, rfl, rfl⟩
      (sameControl_finish ..))
  case micro =>
    exact fun u o n hu hP => hP.imp (·.trans (sameControl_txStep hu)) fun ⟨hr, h⟩ => ⟨hr, h.trans (sameControl_txStep hu)⟩

/-! ### What one command can do -/

/-- The states in which a command run on `s` may end (R70): one case for the buffer commands, two for SETUP, and one for each
of the others but TEARDOWN, which differs by COE. -/
inductive CommandEffect (s : State) : Instr → State → Prop where
  /-- a buffer command writes the buffer as it may, and answers (R126) -/
  | buffer {i : Instr} {pix : Vector Pixel Config.nPixels} (hpix : BufferWrite i s.pix pix) (resp : RespWord) :
      CommandEffect s i { s with pix, resp }
  /-- a SETUP that is refused leaves only its events, and answers (R204, R205) -/
  | setupRefused (d c : Int) (answers : List Bool) (draws : Nat) (traceRev : List Event) (resp : RespWord) :
      CommandEffect s (.setup d c) { s with answers, draws, traceRev, resp }
  /-- a SETUP that succeeds assigns two legal, different pins (R180) -/
  | setupDone {d c : Nat} (hd : 1 ≤ d ∧ d ≤ 27) (hc : 1 ≤ c ∧ c ≤ 27) (hne : d ≠ c) (answers : List Bool) (draws : Nat)
      (traceRev : List Event) :
      CommandEffect s (.setup d c) ((State.assignPins { s with answers, draws, traceRev } d c).respond 0)
  /-- SETCOE (R183) -/
  | setcoe (f : Bool) : CommandEffect s (.setcoe f) ((s.writeCoe f).respond 0)
  /-- SHOW (R150) -/
  | showFrame : CommandEffect s .showFrame (sendFrame .byShow s)
  /-- TEARDOWN with COE = 1 clears and sends a frame (R184) -/
  | teardownDark (hcoe : s.coe = true) : CommandEffect s .teardown (sendFrame .byTeardown (cleared s))
  /-- TEARDOWN with COE = 0 sends none (R186) -/
  | teardownPlain (hcoe : s.coe = false) : CommandEffect s .teardown (finish .byTeardown none s)

theorem setup_effect (d c : Int) (s : State) : CommandEffect s (.setup d c) (setupBody d c s).answer := by
  rcases setupBody_cases d c s with e | ⟨m, n, ⟨rfl, hm⟩, ⟨rfl, hn⟩, hne, e | e | e⟩ <;> rw [e]
  · exact .setupRefused ..
  · exact .setupRefused ..
  · exact .setupRefused ..
  · exact .setupDone hm hn hne ..

theorem buffer_effect {i : Instr} {s : State} {x : Result} (h : BufferEnd i s x) : CommandEffect s i x.answer := by
  rcases h with ⟨pix, v, rfl, hpix⟩ | ⟨e, rfl, -⟩
  · exact .buffer hpix _
  · exact .buffer (.refl i s.pix) _

/-- A command that answers a next state was taken (R47), and had one of the effects of its kind. -/
theorem exec_effect {i : Instr} {s t : State} (h : exec i s = .next t) : Takes s ∧ CommandEffect s i t := by
  by_cases hb : isBufferCommand i = true
  · obtain ⟨body, hbody, hend⟩ := exec_buffer i hb
    obtain ⟨htakes, rfl⟩ := taken_eq_next.mp (hbody s ▸ h)
    exact ⟨htakes, buffer_effect (hend s)⟩
  · cases i with
    | setup d c =>
      obtain ⟨htakes, rfl⟩ := taken_eq_next.mp (exec_setup d c s ▸ h)
      exact ⟨htakes, setup_effect d c s⟩
    | setcoe f =>
      obtain ⟨htakes, rfl⟩ := taken_eq_next.mp (exec_setcoe f s ▸ h)
      exact ⟨htakes, .setcoe f⟩
    | showFrame =>
      obtain ⟨htakes, rfl⟩ := taken_eq_next.mp (exec_showFrame s ▸ h)
      exact ⟨htakes, .showFrame⟩
    | teardown =>
      obtain ⟨htakes, rfl⟩ := taken_eq_next.mp (exec_teardown s ▸ h)
      cases hcoe : s.coe with
      | true => exact ⟨htakes, .teardownDark hcoe⟩
      | false => exact ⟨htakes, .teardownPlain hcoe⟩
    | _ => exact absurd rfl hb

/-- What a reset leaves and every micro-step, every command and the port keep, a step keeps (R47, R71, R156, R230). -/
theorem step_keeps {P : State → Prop} {s t : State} (hs : P s) (h : step s = .next t) (reset : P s.hostReset)
    (micro : ∀ owner n, s.tx = .sending owner n → P (txStep s)) (pop : s.tx = .idle → P s.popHost)
    (illegal : s.tx = .idle → P (s.popHost.respond (errWord .illegalCommand)))
    (command : ∀ i u v, P u → exec i u = .next v → P v) : P t := by
  cases hd : resetDue s with
  | true =>
    rw [step_reset hd] at h
    cases h
    exact reset
  | false =>
    rcases step_cases h hd with ⟨owner, n, ht, rfl⟩ | ⟨ht, w, rest, -, ⟨i, -, hexec⟩ | ⟨e, -, -, rfl⟩⟩ | ⟨-, -, rfl⟩
    · exact micro owner n ht
    · exact command i _ t (pop ht) hexec
    · exact illegal ht
    · exact hs

/-! ### The invariant -/

/-- Every colour of the buffer is 0. -/
def Dark (pix : Vector Pixel Config.nPixels) : Prop := ∀ i : PixelIndex, pix[i].r = 0 ∧ pix[i].g = 0 ∧ pix[i].b = 0

theorem clearedPixels_getElem (pix : Vector Pixel Config.nPixels) (i : PixelIndex) :
    (clearedPixels pix)[i] = { pix[i] with r := 0, g := 0, b := 0 } := Vector.getElem_map ..

theorem dark_clearedPixels (pix : Vector Pixel Config.nPixels) : Dark (clearedPixels pix) := fun i => by
  rw [clearedPixels_getElem]; exact ⟨rfl, rfl, rfl⟩

/-- What a buffer command writes is in range (R12). -/
theorem BufferWrite.pixelsInRange {i : Instr} {s t : State} (h : BufferWrite i s.pix t.pix) (hs : PixelsInRange s) :
    PixelsInRange t := fun k => by
  rcases (h k).1 with e | ⟨n, -, hn, e⟩ <;> rw [e]
  · exact hs k
  · simp only [Config.brtMax]; omega

theorem SameControl.pixelsInRange {s t : State} (h : SameControl s t) (hs : PixelsInRange s) : PixelsInRange t := fun i => by
  rw [h.pix]; exact hs i

theorem SameControl.readyHasPins {s t : State} (h : SameControl s t) (hs : ReadyHasPins s) : ReadyHasPins t := by
  unfold ReadyHasPins
  rw [h.ready, h.dataPin, h.clkPin]
  exact hs

/-- In Idle nothing is asked of a frame, so the invariant is that of the buffer, the pins and the levels. -/
theorem inv_of_idle {t : State} (ht : t.tx = .idle) (hpix : PixelsInRange t) (hpins : ReadyHasPins t)
    (hnone : UnreadyHasNone t) : Inv t := by
  refine ⟨hpix, hpins, hnone, ?_, ?_, ?_⟩
  · exact fun o n h => absurd (ht.symm.trans h) (by simp)
  · exact fun n h => absurd (ht.symm.trans h) (by simp)
  · exact fun o n h => absurd (ht.symm.trans h) (by simp)

/-- In a frame the block is ready, so nothing is asked of the levels. -/
theorem inv_of_sending {t : State} {owner : FrameOwner} {n : Fin Config.frameWrites} (ht : t.tx = .sending owner n)
    (hpix : PixelsInRange t) (hpins : ReadyHasPins t) (hready : t.ready = true) (hlife : t.life = .alive)
    (hdark : owner = .byTeardown → t.coe = true ∧ Dark t.pix) (hshift : ShiftCoherent t) : Inv t := by
  refine ⟨hpix, hpins, ?_, ?_, ?_, hshift⟩
  · exact fun h => absurd (hready.symm.trans h) (by simp)
  · exact fun _ _ _ => ⟨hready, hlife⟩
  · intro m hm
    rw [ht] at hm
    injection hm with hm
    exact hdark hm

/-- An end in Idle that leaves the pins as they were, and the levels too on a block without pins, keeps the invariant. -/
theorem Inv.idle_same_pins {s t : State} (hs : Inv s) (ht : t.tx = .idle) (hpix : PixelsInRange t)
    (hready : t.ready = s.ready) (hdata : t.dataPin = s.dataPin) (hclk : t.clkPin = s.clkPin)
    (hlvl : s.ready = false → t.lvlDat = s.lvlDat ∧ t.lvlClk = s.lvlClk) : Inv t := by
  obtain ⟨-, hpins, hnone, -⟩ := hs
  refine inv_of_idle ht hpix ?_ ?_
  · unfold ReadyHasPins
    rw [hready, hdata, hclk]
    exact hpins
  · intro hr
    rw [hready] at hr
    obtain ⟨ldat, lclk⟩ := hlvl hr
    rw [hdata, hclk, ldat, lclk]
    exact hnone hr

/-- Two legal, different pins assigned in Idle meet the invariant (R180, R30). -/
theorem Inv.assignPins {s : State} {d c : Nat} (hs : Inv s) (ht : s.tx = .idle) (hd : 1 ≤ d ∧ d ≤ 27) (hc : 1 ≤ c ∧ c ≤ 27)
    (hne : d ≠ c) : Inv (s.assignPins d c) := by
  obtain ⟨hpix, -⟩ := hs
  refine inv_of_idle ht hpix (fun _ => ⟨d, c, rfl, rfl, ?_, ?_, hne⟩) fun h => absurd h (by simp)
  · simp only [PinOk, Config.pinMin, Config.pinMax]; omega
  · simp only [PinOk, Config.pinMin, Config.pinMax]; omega

/-- The end of a command in Idle (R150, R184). -/
theorem Inv.finish {s : State} (hs : Inv s) (ht : s.tx = .idle) (owner : FrameOwner) (err : Option Err) :
    Inv (finish owner err s) :=
  hs.idle_same_pins (by simpa using ht) ((sameControl_finish owner err s).pixelsInRange hs.1) (by simp) (by simp) (by simp)
    (by simp)

/-- The first position of a frame asks nothing of EBUF and SR (R152). -/
theorem shiftCoherent_start {s : State} {owner : FrameOwner} (ht : s.tx = .sending owner 0) : ShiftCoherent s := by
  intro o m hm hp
  rw [ht] at hm
  injection hm with _ hm
  subst hm
  exact absurd hp (by decide)

/-- A frame begins on held handles of a living block, TEARDOWN's on a dark buffer (R150, R184). -/
theorem Inv.start {s : State} {owner : FrameOwner} (hs : Inv s) (hready : s.ready = true) (hlife : s.life = .alive)
    (hdark : owner = .byTeardown → s.coe = true ∧ Dark s.pix) : Inv (s.setTx (.sending owner 0)) := by
  obtain ⟨hpix, hpins, -⟩ := hs
  exact inv_of_sending rfl hpix hpins hready hlife hdark (shiftCoherent_start rfl)

/-- Every micro-step keeps the invariant (R156). -/
theorem Inv.txStep {s : State} {owner : FrameOwner} {n : Fin Config.frameWrites} (hs : Inv s) (ht : s.tx = .sending owner n) :
    Inv (txStep s) := by
  obtain ⟨hpix, hpins, -, hhandles, hdark, hshift⟩ := hs
  obtain ⟨hready, hlife⟩ := hhandles owner n ht
  have same := sameControl_txStep ht
  have hpix' := same.pixelsInRange hpix
  have hpins' := same.readyHasPins hpins
  have hready' := same.ready.trans hready
  rcases txStep_eq ht hshift with ⟨h, ebuf, sr, e, hshift'⟩ | ⟨-, e⟩
  · obtain ⟨-, -, -, -, wlife⟩ := written_control s (lineAt s.pix n)
    refine inv_of_sending (owner := owner) (n := ⟨n.val + 1, h⟩) ?_ hpix' hpins' hready' ?_ ?_ hshift'
    · rw [e]; rfl
    · rw [e]; exact wlife.trans hlife
    · rintro rfl
      rw [same.coe, same.pix]
      exact hdark n ht
  · refine inv_of_idle ?_ hpix' hpins' fun h => absurd (hready'.symm.trans h) (by simp)
    rw [e, finish_tx]; rfl

/-- SHOW's work keeps the invariant, cut off by a reset or not, its lazy setup granted or refused (R150, R182, R232). -/
theorem Inv.sendFrame {s : State} {owner : FrameOwner} (hs : Inv s) (htakes : Takes s)
    (hdark : owner = .byTeardown → s.coe = true ∧ Dark s.pix) : Inv (sendFrame owner s) := by
  obtain ⟨hlife, ht⟩ := htakes
  have asked (k : Nat) (es : List Event) : Inv { useAnswers k s with traceRev := es } :=
    hs.idle_same_pins ht hs.1 rfl rfl rfl fun _ => ⟨rfl, rfl⟩
  refine sendFrame_keeps owner s ?ready ?lazily ?refused ?refused' ?micro
  case ready => exact fun hr => hs.start hr hlife hdark
  case lazily =>
    have hset : Inv s.lazySetup := (asked 2 _).assignPins ht (by omega) (by omega) (by omega)
    exact fun _ => hset.start rfl hlife hdark
  case refused => exact fun _ => (asked 1 _).finish ht owner _
  case refused' => exact fun _ => (asked 2 _).finish ht owner _
  case micro => exact fun u o n hu hP => hP.txStep hu

/-- Every command keeps the invariant. -/
theorem Inv.exec {i : Instr} {s t : State} (hs : Inv s) (h : exec i s = .next t) : Inv t := by
  obtain ⟨htakes, heffect⟩ := exec_effect h
  have ht : s.tx = .idle := htakes.2
  have hpix : PixelsInRange s := hs.1
  cases heffect with
  | buffer hwrite resp => exact hs.idle_same_pins ht (hwrite.pixelsInRange hpix) rfl rfl rfl fun _ => ⟨rfl, rfl⟩
  | setupRefused d c answers draws traceRev resp => exact hs.idle_same_pins ht hpix rfl rfl rfl fun _ => ⟨rfl, rfl⟩
  | setupDone hd hc hne answers draws traceRev =>
    have asked : Inv { s with answers, draws, traceRev } := hs.idle_same_pins ht hpix rfl rfl rfl fun _ => ⟨rfl, rfl⟩
    exact (asked.assignPins ht hd hc hne).idle_same_pins ht hpix rfl rfl rfl fun _ => ⟨rfl, rfl⟩
  | setcoe f => exact hs.idle_same_pins ht hpix rfl rfl rfl fun _ => ⟨rfl, rfl⟩
  | showFrame => exact hs.sendFrame htakes fun h => by cases h
  | teardownDark hcoe =>
    rw [cleared_eq]
    have hpix' : PixelsInRange { s with pix := clearedPixels s.pix } := fun k => by
      simp only [clearedPixels_getElem]; exact hpix k
    have hclear : Inv { s with pix := clearedPixels s.pix } := hs.idle_same_pins ht hpix' rfl rfl rfl fun _ => ⟨rfl, rfl⟩
    exact hclear.sendFrame htakes fun _ => ⟨hcoe, dark_clearedPixels s.pix⟩
  | teardownPlain hcoe => exact hs.finish ht .byTeardown none

/-- Every pixel of the reset state is `DEFAULT_PIXEL` (R13, R29). -/
theorem reset_pix_getElem (k : PixelIndex) : State.reset.pix[k] = defaultPixel := Vector.getElem_replicate ..

/-- The invariant holds after any reset: of the block's registers it reads, all are at their reset values (R230). -/
theorem inv_hostReset (s : State) : Inv s.hostReset := by
  refine inv_of_idle rfl (fun k => ?_) (fun h => by cases h) fun _ => ⟨rfl, rfl, rfl, rfl⟩
  have e : s.hostReset.pix[k] = defaultPixel := reset_pix_getElem k
  rw [e]
  decide

/-- Settles O48: the reset state is what a reset makes of itself. -/
theorem resetMeetsTheInvariant : Obligations.ResetMeetsTheInvariant := inv_hostReset State.reset

/-- Settles O49, by the kinds of step: the micro-steps and the commands are the lemmas above. -/
theorem everyStepKeepsTheInvariant : Obligations.EveryStepKeepsTheInvariant := fun s _ hs h =>
  have same (resp : RespWord) (ht : s.tx = .idle) : Inv (s.popHost.respond resp) :=
    hs.idle_same_pins ht hs.1 rfl rfl rfl fun _ => ⟨rfl, rfl⟩
  step_keeps hs h (inv_hostReset s) (fun _ _ => hs.txStep) (same s.resp) (same _) fun _ _ _ hu => hu.exec

end Sys2Proof.Machine
end

section
/-! PROOFS about the state (10_state.md): the values at reset, reading, and who writes which register. -/

namespace Sys2Proof.Machine

open Sys2Proof

/-! ### Reset and reading -/

/-- Settles O8: each register of the reset state, read off (R29). -/
theorem resetValues : Obligations.ResetValues :=
  ⟨reset_pix_getElem, rfl, rfl, rfl, rfl, rfl, rfl, rfl, rfl, rfl, rfl, rfl⟩

/-- The command's answer is a function of the pixel buffer, and it is all that the command changes (R15). -/
def AnswersFromBuffer (i : Instr) : Prop :=
  ∃ answer : Vector Pixel Config.nPixels → RespWord, ∀ s : State, Takes s → exec i s = .next (s.respond (answer s.pix))

/-- A pseudocode that only tests an index and reads that pixel answers from the buffer. -/
theorem answersFromBuffer_of_read {i : Instr} (x : Int) (read : PixelIndex → Pixel → BitVec 16)
    (hi : ∀ s, exec i s = taken s fun s => (withIndex x s fun k => .done s (read k (s.pixRead k))).answer) :
    AnswersFromBuffer i := by
  rcases index_cases x with ⟨k, rfl⟩ | hx
  · exact ⟨fun pix => okWord (read k pix[k]), fun s hs => by rw [hi, taken_eq hs, withIndex_val]; rfl⟩
  · exact ⟨fun _ => errWord .invalidPixelIndex, fun s hs => by rw [hi, taken_eq hs, withIndex_bad hx]; rfl⟩

theorem getter_answersFromBuffer {i : Instr} (hi : isGetter i = true) : AnswersFromBuffer i := by
  cases i with
  | getr x => exact answersFromBuffer_of_read x (fun _ p => colorValue p.r) fun _ => rfl
  | getg x => exact answersFromBuffer_of_read x (fun _ p => colorValue p.g) fun _ => rfl
  | getb x => exact answersFromBuffer_of_read x (fun _ p => colorValue p.b) fun _ => rfl
  | getbr x => exact answersFromBuffer_of_read x (fun _ p => (enc5 p.brt).setWidth 16) fun _ => rfl
  | getbrv x => exact answersFromBuffer_of_read x (fun _ p => BitVec.ofNat 16 p.brt) fun _ => rfl
  | getpix x => exact answersFromBuffer_of_read x (fun k _ => BitVec.ofNat 16 k.val) fun _ => rfl
  | _ => cases hi

/-- Settles O16: the answer is a function of the buffer, which the getter leaves as it was. -/
theorem readingHasNoSideEffect : Obligations.ReadingHasNoSideEffect := by
  intro i hi
  obtain ⟨answer, h⟩ := getter_answersFromBuffer hi
  refine ⟨fun s hs => ⟨_, h s hs, rfl, h (s.respond (answer s.pix)) hs⟩, fun s u hs hu hpix => ?_⟩
  exact ⟨_, _, h s hs, h u hu, congrArg answer hpix⟩

/-! ### What SHOW's work and TEARDOWN's clearing leave alone -/

@[simp] theorem sendFrame_pix (owner : FrameOwner) (s : State) : (sendFrame owner s).pix = s.pix :=
  (sendFrame_control owner s).elim (·.pix) (·.2.pix)

@[simp] theorem sendFrame_coe (owner : FrameOwner) (s : State) : (sendFrame owner s).coe = s.coe :=
  (sendFrame_control owner s).elim (·.coe) (·.2.coe)

theorem sendFrame_keeps_ready {s : State} (owner : FrameOwner) (hr : s.ready = true) : (sendFrame owner s).ready = true :=
  (sendFrame_control owner s).elim (·.ready.trans hr) (·.2.ready)

/-- SHOW's work changes a pin register only by a lazy setup, with the default pins (R182). -/
theorem sendFrame_changed_pins {s : State} {owner : FrameOwner}
    (h : (sendFrame owner s).dataPin ≠ s.dataPin ∨ (sendFrame owner s).clkPin ≠ s.clkPin) :
    (sendFrame owner s).ready = true ∧ s.ready = false ∧ (sendFrame owner s).dataPin = some 23 ∧
      (sendFrame owner s).clkPin = some 24 := by
  rcases sendFrame_control owner s with same | ⟨hr, same⟩
  · exact h.elim (absurd same.dataPin) (absurd same.clkPin)
  · exact ⟨same.ready, hr, same.dataPin, same.clkPin⟩

@[simp] theorem cleared_pix (s : State) : (cleared s).pix = clearedPixels s.pix := by rw [cleared_eq]
@[simp] theorem cleared_tx (s : State) : (cleared s).tx = s.tx := by rw [cleared_eq]
@[simp] theorem cleared_ready (s : State) : (cleared s).ready = s.ready := by rw [cleared_eq]
@[simp] theorem cleared_coe (s : State) : (cleared s).coe = s.coe := by rw [cleared_eq]
@[simp] theorem cleared_dataPin (s : State) : (cleared s).dataPin = s.dataPin := by rw [cleared_eq]
@[simp] theorem cleared_clkPin (s : State) : (cleared s).clkPin = s.clkPin := by rw [cleared_eq]
@[simp] theorem cleared_lvlDat (s : State) : (cleared s).lvlDat = s.lvlDat := by rw [cleared_eq]
@[simp] theorem cleared_lvlClk (s : State) : (cleared s).lvlClk = s.lvlClk := by rw [cleared_eq]

/-! ### READY, COE and the pin registers -/

/-- No command clears READY (R20). -/
theorem exec_keeps_ready {i : Instr} {s t : State} (h : exec i s = .next t) (hr : s.ready = true) : t.ready = true := by
  obtain ⟨-, heffect⟩ := exec_effect h
  cases heffect with
  | buffer hwrite resp => exact hr
  | setupRefused d c answers draws traceRev resp => exact hr
  | setupDone hd hc hne answers draws traceRev => rfl
  | setcoe f => exact hr
  | showFrame => exact sendFrame_keeps_ready .byShow hr
  | teardownDark hcoe => exact sendFrame_keeps_ready .byTeardown ((cleared_ready s).trans hr)
  | teardownPlain hcoe => exact (finish_ready ..).trans hr

/-- Settles O51, by the kinds of step that are no reset. -/
theorem readyIsNeverCleared : Obligations.ReadyIsNeverCleared := by
  intro s t h hd hr
  rcases step_cases h hd with ⟨owner, n, ht, rfl⟩ | ⟨-, w, rest, -, ⟨i, -, hexec⟩ | ⟨e, -, -, rfl⟩⟩ | ⟨-, -, rfl⟩
  · exact (sameControl_txStep ht).ready.trans hr
  · exact exec_keeps_ready hexec hr
  · exact hr
  · exact hr

/-- The step of a state in a frame, with no reset due, writes none of the registers that only commands write (R156). -/
theorem sameControl_step {s t : State} {owner : FrameOwner} {n : Fin Config.frameWrites} (ht : s.tx = .sending owner n)
    (hd : resetDue s = false) (h : step s = .next t) : SameControl s t := by
  rw [step_sending ht hd] at h
  cases h
  exact sameControl_txStep ht

/-- Settles O52, by the effects a command can have. -/
theorem onlySetcoeWritesCoe : Obligations.OnlySetcoeWritesCoe := by
  refine ⟨fun i s t h hi => ?_, fun s t owner n ht hd h => (sameControl_step ht hd h).coe⟩
  obtain ⟨-, heffect⟩ := exec_effect h
  cases heffect with
  | buffer hwrite resp => rfl
  | setupRefused d c answers draws traceRev resp => rfl
  | setupDone hd hc hne answers draws traceRev => rfl
  | setcoe f => exact absurd rfl (hi f)
  | showFrame => exact sendFrame_coe ..
  | teardownDark hcoe => exact (sendFrame_coe ..).trans (cleared_coe s)
  | teardownPlain hcoe => exact finish_coe ..

/-- Settles O53, by the effects a command can have: where a pin register changed, a setup has succeeded. -/
theorem onlySetupWritesThePins : Obligations.OnlySetupWritesThePins := by
  refine ⟨fun i s t h hpins => ?_, fun s t owner n ht hd h => ?_⟩
  · obtain ⟨-, heffect⟩ := exec_effect h
    cases heffect with
    | buffer hwrite resp => exact (hpins.elim (· rfl) (· rfl)).elim
    | setupRefused d c answers draws traceRev resp => exact (hpins.elim (· rfl) (· rfl)).elim
    | @setupDone d c hd hc hne answers draws traceRev => exact ⟨rfl, .inl ⟨d, c, rfl, rfl, rfl, rfl⟩⟩
    | setcoe f => exact (hpins.elim (· rfl) (· rfl)).elim
    | showFrame =>
      obtain ⟨hready, hunready, hdata, hclk⟩ := sendFrame_changed_pins hpins
      exact ⟨hready, .inr ⟨.inl rfl, hunready, hdata, hclk⟩⟩
    | teardownDark hcoe =>
      rw [← cleared_dataPin s, ← cleared_clkPin s] at hpins
      obtain ⟨hready, hunready, hdata, hclk⟩ := sendFrame_changed_pins hpins
      exact ⟨hready, .inr ⟨.inr ⟨rfl, hcoe⟩, (cleared_ready s).symm.trans hunready, hdata, hclk⟩⟩
    | teardownPlain hcoe => exact (hpins.elim (· (finish_dataPin ..)) (· (finish_clkPin ..))).elim
  · have same := sameControl_step ht hd h
    exact ⟨same.dataPin, same.clkPin⟩

/-! ### The pixel fields -/

/-- What a command makes of the buffer (R14): what a buffer command of its operands may, or TEARDOWN's clearing with COE = 1. -/
theorem CommandEffect.pix {i : Instr} {s t : State} (h : CommandEffect s i t) :
    BufferWrite i s.pix t.pix ∨ i = .teardown ∧ s.coe = true ∧ t.pix = clearedPixels s.pix := by
  cases h with
  | buffer hwrite resp => exact .inl hwrite
  | setupRefused d c answers draws traceRev resp => exact .inl (.refl _ _)
  | setupDone hd hc hne answers draws traceRev => exact .inl (.refl _ _)
  | setcoe f => exact .inl (.refl _ _)
  | showFrame => rw [sendFrame_pix]; exact .inl (.refl _ _)
  | teardownDark hcoe => exact .inr ⟨rfl, hcoe, by rw [sendFrame_pix, cleared_pix]⟩
  | teardownPlain hcoe => rw [finish_pix]; exact .inl (.refl _ _)

/-- Settles O54, by what a command makes of the buffer. -/
theorem whichCommandWritesWhichField : Obligations.WhichCommandWritesWhichField := by
  intro i s t h
  obtain ⟨-, heffect⟩ := exec_effect h
  rcases heffect.pix with hwrite | ⟨rfl, hcoe, hpix⟩
  · refine ⟨fun hbrt k => ?_, fun hcol hpclr hclear _ k => ?_⟩
    · obtain ⟨hk | ⟨n, hn, -⟩, -⟩ := hwrite k
      · exact hk
      · exact absurd (hbrt.symm.trans hn) (by simp)
    · obtain ⟨-, hk | hk | ⟨x, hk⟩ | hk⟩ := hwrite k
      · exact hk
      · exact absurd hcol hk
      · exact absurd hk (hpclr x)
      · exact absurd hk hclear
  · refine ⟨fun _ k => ?_, fun _ _ _ hno => absurd ⟨rfl, hcoe⟩ hno⟩
    rw [hpix, clearedPixels_getElem]

/-! ### LIFE -/

/-- After a micro-step the frame of the same command goes on, or the sequencer is Idle (R156). -/
theorem txStep_tx {s : State} {owner : FrameOwner} {n : Fin Config.frameWrites} (ht : s.tx = .sending owner n) :
    (∃ m, (txStep s).tx = .sending owner m) ∨ (txStep s).tx = .idle := by
  obtain ⟨w, ebuf, sr, ⟨h, e⟩ | ⟨-, e⟩⟩ := txStep_shape ht
  · exact .inl ⟨_, by rw [e]; rfl⟩
  · exact .inr (by rw [e, finish_tx]; rfl)

/-- A micro-step ends no life, but the last one of a TEARDOWN's frame (R23, R184). -/
theorem txStep_life {s : State} {owner : FrameOwner} {n : Fin Config.frameWrites} (ht : s.tx = .sending owner n)
    (h : owner = .byShow ∨ n.val < 905) : (txStep s).life = s.life := by
  obtain ⟨w, ebuf, sr, hstep⟩ := txStep_shape ht
  obtain ⟨-, -, -, -, wlife⟩ := written_control s w
  rcases hstep with ⟨_, e⟩ | ⟨hn, e⟩ <;> rw [e]
  · exact wlife
  · rcases h with rfl | h
    · exact (finish_byShow_life ..).trans wlife
    · have hsize : Config.frameWrites = 906 := rfl
      omega

/-- SHOW ends no life: its frame's micro-steps are all its own (R23, R150). -/
theorem sendFrame_byShow_life {s : State} (ht : s.tx = .idle) : (sendFrame .byShow s).life = s.life := by
  refine (sendFrame_keeps
    (P := fun t => t.life = s.life ∧ ((∃ m, t.tx = .sending .byShow m) ∨ t.tx = .idle)) .byShow s
    ?ready ?lazily ?refused ?refused' ?micro).1
  case ready => exact fun _ => ⟨rfl, .inl ⟨0, rfl⟩⟩
  case lazily => exact fun _ => ⟨rfl, .inl ⟨0, rfl⟩⟩
  case refused => exact fun _ => ⟨rfl, .inr ht⟩
  case refused' => exact fun _ => ⟨rfl, .inr ht⟩
  case micro =>
    rintro u o n hu ⟨hlife, ⟨m, hm⟩ | hidle⟩
    · rw [hu] at hm
      injection hm with ho
      subst ho
      exact ⟨(txStep_life hu (.inl rfl)).trans hlife, txStep_tx hu⟩
    · exact absurd (hu.symm.trans hidle) (by simp)

/-- Settles O55, by the effects a command can have. -/
theorem onlyTeardownEndsTheLife : Obligations.OnlyTeardownEndsTheLife := by
  refine ⟨fun i s t h hi => ?_, fun s t owner n ht hd h howner => ?_⟩
  · obtain ⟨⟨halive, ht⟩, heffect⟩ := exec_effect h
    cases heffect with
    | buffer hwrite resp => exact halive
    | setupRefused d c answers draws traceRev resp => exact halive
    | setupDone hd hc hne answers draws traceRev => exact halive
    | setcoe f => exact halive
    | showFrame => exact (sendFrame_byShow_life ht).trans halive
    | teardownDark hcoe => exact absurd rfl hi
    | teardownPlain hcoe => exact absurd rfl hi
  · rw [step_sending ht hd] at h
    cases h
    exact txStep_life ht howner

/-! ### The line levels -/

/-- The writes of the end marker (R154): the data line once, 0, and then the clock line, 0 at the last position. -/
theorem lineAt_endFrame (pix : Vector Pixel Config.nPixels) {n : Nat} (hn : Config.endStart ≤ n) :
    phaseOf n ≠ .pixel ∧ (n = Config.endStart → lineAt pix n = (.dat, false)) ∧
    (Config.endStart < n → (lineAt pix n).1 = .clk) ∧ (n + 1 = Config.frameWrites → lineAt pix n = (.clk, false)) := by
  have hphase : phaseOf n = .endFrame := by
    have h1 : ¬ n < Config.pixelStart := by simp only [Config.endStart, Config.pixelStart] at hn ⊢; omega
    simp [phaseOf, h1, Nat.not_lt.mpr hn]
  have hsub : subOf n = markerSub (n - Config.endStart) := by simp [subOf, hphase]
  refine ⟨by simp [hphase], ?_, fun hlt => ?_, ?_⟩
  · rintro rfl
    simp [lineAt, hsub, hphase, markerSub]
  · have h0 : n - Config.endStart ≠ 0 := by omega
    simp only [lineAt, hsub, markerSub, h0, if_false]
    split_ifs <;> rfl
  · intro h
    obtain rfl : n = 905 := Nat.succ.inj h
    rfl

/-- From the end marker's data write on, the data level is 0 after each write (R154, R163). -/
theorem written_endFrame_lvlDat {s : State} {n : Nat} (hn : Config.endStart ≤ n)
    (hs : Config.endStart < n → s.lvlDat = .zero) : (s.written (lineAt s.pix n)).lvlDat = .zero := by
  obtain ⟨-, hfirst, hlater, -⟩ := lineAt_endFrame s.pix hn
  obtain ⟨hdat, hclk⟩ := written_levels s (lineAt s.pix n)
  rcases hn.eq_or_lt with he | hlt
  · have hw := hfirst he.symm
    rw [(hdat (by rw [hw])).1, hw]; rfl
  · rw [(hclk (hlater hlt)).2]; exact hs hlt

/-- In Idle, only the two levels count. -/
theorem lineLevels_of_idle {t : State} (ht : t.tx = .idle)
    (h : t.lvlDat = .x ∧ t.lvlClk = .x ∨ t.lvlDat = .zero ∧ t.lvlClk = .zero) : LineLevels t :=
  ⟨fun _ => h, fun _ _ hm => absurd (ht.symm.trans hm) (by simp)⟩

/-- In a frame, only the data level from the end marker on counts. -/
theorem lineLevels_of_sending {t : State} {owner : FrameOwner} {n : Fin Config.frameWrites} (ht : t.tx = .sending owner n)
    (h : Config.endStart < n.val → t.lvlDat = .zero) : LineLevels t := by
  refine ⟨fun hm => absurd (ht.symm.trans hm) (by simp), fun o m hm => ?_⟩
  rw [ht] at hm
  injection hm with _ hm
  exact hm ▸ h

/-- An end in Idle that leaves both levels as they were. -/
theorem LineLevels.idle_same {s t : State} (hs : LineLevels s) (hidle : s.tx = .idle) (ht : t.tx = .idle)
    (hdat : t.lvlDat = s.lvlDat) (hclk : t.lvlClk = s.lvlClk) : LineLevels t :=
  lineLevels_of_idle ht (by rw [hdat, hclk]; exact hs.1 hidle)

/-- Every micro-step keeps it: outside the end marker nothing is asked, in it the data level is 0, and its last write leaves the
clock at 0 too (R154, R163). -/
theorem LineLevels.txStep {s : State} {owner : FrameOwner} {n : Fin Config.frameWrites} (hs : LineLevels s)
    (ht : s.tx = .sending owner n) : LineLevels (txStep s) := by
  by_cases hn : n.val < Config.endStart
  · obtain ⟨w, ebuf, sr, ⟨h, e⟩ | ⟨hlast, -⟩⟩ := txStep_shape ht
    · have htx : (Machine.txStep s).tx = .sending owner ⟨n.val + 1, h⟩ := by rw [e]; rfl
      exact lineLevels_of_sending htx fun hlt => absurd hn (by simp only at hlt; omega)
    · have hsize : Config.endStart < Config.frameWrites := by decide
      omega
  · have hend := Nat.le_of_not_lt hn
    obtain ⟨hphase, -, -, hlast⟩ := lineAt_endFrame s.pix hend
    have hdat := written_endFrame_lvlDat hend (hs.2 owner n ht)
    have hshift : ShiftCoherent s := by
      intro o m hm hp
      rw [ht] at hm
      injection hm with _ hm
      exact absurd (hm ▸ hp) hphase
    rcases txStep_eq ht hshift with ⟨h, ebuf, sr, e, -⟩ | ⟨hn, e⟩
    · rw [e]
      exact lineLevels_of_sending (owner := owner) (n := ⟨n.val + 1, h⟩) rfl fun _ => hdat
    · rw [e]
      obtain ⟨-, hclk⟩ := written_levels s (lineAt s.pix n)
      refine lineLevels_of_idle (by simp) (.inr ⟨?_, ?_⟩)
      · rw [finish_lvlDat]; exact hdat
      · rw [finish_lvlClk, State.toIdle_lvlClk, (hclk (by rw [hlast hn])).1, hlast hn]; rfl

/-- SHOW's work keeps it (R150, R163). -/
theorem LineLevels.sendFrame {s : State} (hs : LineLevels s) (ht : s.tx = .idle) (owner : FrameOwner) :
    LineLevels (sendFrame owner s) := by
  have start (u : State) : LineLevels (u.setTx (.sending owner 0)) :=
    lineLevels_of_sending rfl fun h => absurd h (by decide)
  refine sendFrame_keeps owner s ?ready ?lazily ?refused ?refused' ?micro
  case ready => exact fun _ => start s
  case lazily => exact fun _ => start s.lazySetup
  case refused => exact fun _ => hs.idle_same ht (by simpa using ht) (by simp) (by simp)
  case refused' => exact fun _ => hs.idle_same ht (by simpa using ht) (by simp) (by simp)
  case micro => exact fun u o n hu hP => hP.txStep hu

/-- Every command keeps it. -/
theorem LineLevels.exec {i : Instr} {s t : State} (hs : LineLevels s) (h : exec i s = .next t) : LineLevels t := by
  obtain ⟨⟨-, ht⟩, heffect⟩ := exec_effect h
  cases heffect with
  | buffer hwrite resp => exact hs.idle_same ht ht rfl rfl
  | setupRefused d c answers draws traceRev resp => exact hs.idle_same ht ht rfl rfl
  | setupDone hd hc hne answers draws traceRev => exact lineLevels_of_idle ht (.inl ⟨rfl, rfl⟩)
  | setcoe f => exact hs.idle_same ht ht rfl rfl
  | showFrame => exact hs.sendFrame ht .byShow
  | teardownDark hcoe =>
    have hclear : LineLevels (cleared s) := hs.idle_same ht (by simpa using ht) (by simp) (by simp)
    exact hclear.sendFrame (by simpa using ht) .byTeardown
  | teardownPlain hcoe => exact hs.idle_same ht (by simpa using ht) (by simp) (by simp)

/-- After a reset both levels are unknown (R230). -/
theorem lineLevels_hostReset (s : State) : LineLevels s.hostReset := lineLevels_of_idle rfl (.inl ⟨rfl, rfl⟩)

/-- Settles O50, by the kinds of step: the micro-steps and the commands are the lemmas above. -/
theorem levelsBetweenCommands : Obligations.LevelsBetweenCommands := by
  refine ⟨lineLevels_hostReset State.reset, fun s t hs h => ?_⟩
  have same (resp : RespWord) (ht : s.tx = .idle) : LineLevels (s.popHost.respond resp) := hs.idle_same ht ht rfl rfl
  exact step_keeps hs h (lineLevels_hostReset s) (fun _ _ => hs.txStep) (same s.resp) (same _) fun _ _ _ hu => hu.exec

end Sys2Proof.Machine
end

section
/-! PROOFS about memory and the port (20_memory.md): the command a step runs, and the events a command makes. -/

namespace Sys2Proof.Machine

open Sys2Proof

/-! ### The word a step takes -/

/-- The step of an idle, living block with a word on the port takes that word (R47): no reset is due, for the word is the
host's next input. -/
theorem step_takeWord {s : State} {w : CmdWord} {rest : List HostInput} (hs : Takes s) (hh : s.host = .command w :: rest) :
    step s = takeWord w { s with host := rest } := by
  obtain ⟨-, ht⟩ := hs
  have hd : resetDue s = false := by simp [resetDue, hh]
  simp [step, portStep, hd, ht, hh, State.popHost]

/-- A legal word runs as its command (R47). -/
theorem takeWord_legal {w : CmdWord} {i : Instr} (hw : decode w = .ok i) (s : State) : takeWord w s = exec i s := by
  simp [takeWord, hw]

/-- Settles O6: the step takes the word, and a legal word runs as its command. -/
theorem stepRunsTheDecodedCommand : Obligations.StepRunsTheDecodedCommand := fun _ _ _ _ hs hh hw =>
  (step_takeWord hs hh).trans (takeWord_legal hw _)

/-! ### The trace under a command -/

/-- The events a command may make (R52). -/
def MayMake (i : Instr) : Event → Prop
  | .acq _ => (∃ d c, i = .setup d c) ∨ i = .showFrame ∨ i = .teardown
  | .set _ _ => i = .showFrame ∨ i = .teardown
  | .rel _ => i = .teardown

/-- From `s` to `t` the trace has grown, by events the command may make. -/
def GrowsTrace (i : Instr) (s t : State) : Prop := ∃ es, t.trace = s.trace ++ es ∧ ∀ e ∈ es, MayMake i e

theorem GrowsTrace.of_eq {i : Instr} {s t : State} (h : t.trace = s.trace) : GrowsTrace i s t := ⟨[], by simp [h], by simp⟩

theorem GrowsTrace.trans {i : Instr} {s t u : State} (h : GrowsTrace i s t) (k : GrowsTrace i t u) : GrowsTrace i s u := by
  obtain ⟨es, hes, hmay⟩ := h
  obtain ⟨fs, hfs, kmay⟩ := k
  exact ⟨es ++ fs, by rw [hfs, hes, List.append_assoc], fun e he => (List.mem_append.mp he).elim (hmay e) (kmay e)⟩

theorem GrowsTrace.emit {i : Instr} {s t : State} (h : GrowsTrace i s t) {e : Event} (he : MayMake i e) :
    GrowsTrace i s (t.emit e) :=
  h.trans ⟨[e], State.trace_emit t e, List.forall_mem_singleton.mpr he⟩

/-! ### SETUP -/

/-- SETUP makes only acquisitions, one or two or none (R180). -/
theorem growsTrace_setup (d c : Int) (s : State) : GrowsTrace (.setup d c) s (setupBody d c s).answer := by
  have may (m : Nat) : MayMake (.setup d c) (.acq m) := .inl ⟨d, c, rfl⟩
  have one (k m : Nat) : GrowsTrace (.setup d c) s ((useAnswers k s).emit (.acq m)) := (GrowsTrace.of_eq rfl).emit (may m)
  rcases setupBody_cases d c s with e | ⟨m, n, -, -, -, e | e | e⟩ <;> rw [e]
  · exact .of_eq rfl
  · exact one 1 m
  · exact (one 2 m).emit (may n)
  · exact (one 2 m).emit (may n)

/-! ### A frame -/

/-- The command whose frame it is (R150, R184). -/
def FrameOwner.command : FrameOwner → Instr
  | .byShow => .showFrame
  | .byTeardown => .teardown

theorem FrameOwner.command_eq (owner : FrameOwner) : owner.command = .showFrame ∨ owner.command = .teardown := by
  cases owner <;> simp [FrameOwner.command]

/-- The end of a command makes releases only, SHOW's none (R150, R184). -/
theorem growsTrace_finish (owner : FrameOwner) (err : Option Err) (s : State) :
    GrowsTrace owner.command s (finish owner err s) := by
  obtain ⟨rels, resp, hrels, hshow, e⟩ := finish_spec owner err s
  refine ⟨rels.reverse, by rw [e]; exact List.reverse_append, fun ev hev => ?_⟩
  rw [List.mem_reverse] at hev
  cases owner with
  | byShow => rw [hshow rfl] at hev; cases hev
  | byTeardown =>
    obtain ⟨n, rfl⟩ := hrels ev hev
    rfl

/-- A micro-step makes its line write, and the last one of a frame what the end of the command makes (R156). -/
theorem growsTrace_txStep {s : State} {owner : FrameOwner} {n : Fin Config.frameWrites} (ht : s.tx = .sending owner n) :
    GrowsTrace owner.command s (txStep s) := by
  obtain ⟨w, ebuf, sr, hstep⟩ := txStep_shape ht
  have write : GrowsTrace owner.command s (s.written w) :=
    ⟨_, written_trace s w, List.forall_mem_singleton.mpr owner.command_eq⟩
  rcases hstep with ⟨_, e⟩ | ⟨-, e⟩ <;> rw [e]
  · exact write
  · exact write.trans (growsTrace_finish owner none (s.written w).toIdle)

/-- SHOW's work makes events of the command that asked for it: its frame stays that command's to the end (R150, R182, R184). -/
theorem growsTrace_sendFrame {s : State} (ht : s.tx = .idle) (owner : FrameOwner) :
    GrowsTrace owner.command s (sendFrame owner s) := by
  have may (m : Nat) : MayMake owner.command (.acq m) := .inr owner.command_eq
  have one (k : Nat) : GrowsTrace owner.command s ((useAnswers k s).emit (.acq 23)) := (GrowsTrace.of_eq rfl).emit (may 23)
  have two : GrowsTrace owner.command s (((useAnswers 2 s).emit (.acq 23)).emit (.acq 24)) := (one 2).emit (may 24)
  refine (sendFrame_keeps
    (P := fun u => GrowsTrace owner.command s u ∧ ((∃ m, u.tx = .sending owner m) ∨ u.tx = .idle)) owner s
    ?ready ?lazily ?refused ?refused' ?micro).1
  case ready => exact fun _ => ⟨.of_eq rfl, .inl ⟨0, rfl⟩⟩
  case lazily => exact fun _ => ⟨two, .inl ⟨0, rfl⟩⟩
  case refused => exact fun _ => ⟨(one 1).trans (growsTrace_finish ..), .inr (by simpa using ht)⟩
  case refused' => exact fun _ => ⟨two.trans (growsTrace_finish ..), .inr (by simpa using ht)⟩
  case micro =>
    rintro u o n hu ⟨hgrows, ⟨m, hm⟩ | hidle⟩
    · exact ⟨hgrows.trans (growsTrace_txStep hm), txStep_tx hm⟩
    · exact absurd (hu.symm.trans hidle) (by simp)

/-! ### Every command -/

/-- Every command grows the trace by events it may make (R52). -/
theorem exec_growsTrace {i : Instr} {s t : State} (h : exec i s = .next t) : GrowsTrace i s t := by
  have setup {d c : Int} {t : State} (h : exec (.setup d c) s = .next t) : GrowsTrace (.setup d c) s t := by
    obtain ⟨-, rfl⟩ := taken_eq_next.mp (exec_setup d c s ▸ h)
    exact growsTrace_setup d c s
  obtain ⟨⟨-, ht⟩, heffect⟩ := exec_effect h
  cases heffect with
  | buffer hwrite resp => exact .of_eq rfl
  | setupRefused d c answers draws traceRev resp => exact setup h
  | setupDone hd hc hne answers draws traceRev => exact setup h
  | setcoe f => exact .of_eq rfl
  | showFrame => exact growsTrace_sendFrame ht .byShow
  | teardownDark hcoe =>
    have hclear : GrowsTrace .teardown s (cleared s) := .of_eq (by rw [cleared_eq]; rfl)
    exact hclear.trans (growsTrace_sendFrame ((cleared_tx s).trans ht) .byTeardown)
  | teardownPlain hcoe => exact growsTrace_finish .byTeardown none s

/-- Settles O56: a command grows the trace by the events it may make, kind by kind. -/
theorem traceOnlyGrows : Obligations.TraceOnlyGrows := by
  intro i s t h
  obtain ⟨es, htrace, hmay⟩ := exec_growsTrace h
  exact ⟨es, htrace, fun n => hmay (.acq n), fun l v => hmay (.set l v), fun n => hmay (.rel n)⟩

end Sys2Proof.Machine
end

section
/-! PROOFS about the command word (30_encoding.md): the decoder and the encoder, and the opcode table. What the decoder accepts is
said once, as the predicate `Fields.Accepted`; the round trips, the table and the illegal words are all read off it. -/

namespace Sys2Proof

/-! ### What the decoder accepts -/

/-- The fields pass the tests of R73 on a command with this opcode, so that none of items 1 to 4 of R71 holds of them. -/
structure Fields.Accepted (f : Fields) (op : Opcode) : Prop where
  opcode : f.op = op.code
  reserved : f.rsv = 0
  brightness : f.bp = 1 → op.format.optionalBrightness = true
  unused : unusedSlotsZero op.format f = true

/-- Only SETPIX and SETPIXS may carry `BP = 1` (R65, R71 item 3). -/
theorem optionalBrightness_iff {op : Opcode} : op.format.optionalBrightness = true ↔ op = .setpix ∨ op = .setpixs := by
  cases op <;> decide

/-- The decoder reads the operands exactly of the fields that pass its tests (R71, R73). -/
theorem decodeFields_eq_ok_iff {f : Fields} {i : Instr} :
    decodeFields f = .ok i ↔ ∃ op, f.Accepted op ∧ operandsOf op f = .ok i := by
  constructor
  · intro h
    unfold decodeFields at h
    split at h
    · cases h
    next op hop =>
      split_ifs at h with hrsv hbp hslots
      exact ⟨op, ⟨(code_of_ofCode hop).symm, not_not.mp hrsv, by simpa using hbp, by simpa using hslots⟩, h⟩
  · rintro ⟨op, ⟨hop, hrsv, hbp, hslots⟩, h⟩
    simpa [decodeFields, hop, hrsv, hslots, h] using hbp

/-- What is read from a word is a command of its opcode, and every operand is the integer of one of its slots (R66, R67). -/
theorem operandsOf_spec {op : Opcode} {f : Fields} {i : Instr} (h : operandsOf op f = .ok i) :
    i.opcode = op ∧ i.operands ⊆ [f.a, f.b, f.c, f.d, f.e].map slotInt := by
  cases op
  case setpix | setpixs | setcoe =>
    simp only [operandsOf] at h
    split_ifs at h <;> cases h <;> simp [Instr.opcode, Instr.operands]
  all_goals
    cases h
    simp [Instr.opcode, Instr.operands]

/-- Once items 1 to 4 of R71 have passed, only the flag of SETCOE can be illegal (item 5). -/
theorem exists_operandsOf_iff {op : Opcode} {f : Fields} :
    (∃ i, operandsOf op f = .ok i) ↔ (op = .setcoe → f.a = 0 ∨ f.a = 1) := by
  cases op
  case setpix | setpixs | setcoe => simp only [operandsOf]; split_ifs <;> simp_all
  all_goals simp [operandsOf]

/-! ### The round trips (R73) -/

/-- The fields of a command pass the tests of its opcode (R66). -/
theorem accepted_encodeFields (i : Instr) : (encodeFields i).Accepted i.opcode := by
  cases i <;>
    constructor <;>
    simp [encodeFields, fieldsOf, unusedSlotsZero, Instr.opcode, Opcode.format, Format.uses, Format.optionalBrightness]

/-- The operands of a command that fits are read back from its fields (R67, R68). -/
theorem operandsOf_encodeFields {i : Instr} (h : i.WellFormed) : operandsOf i.opcode (encodeFields i) = .ok i := by
  have hslots : ∀ x ∈ i.operands, slotInt (intSlot x) = x := fun x hx => slotInt_intSlot (h x hx)
  cases i
  case setcoe flag => cases flag <;> rfl
  all_goals
    simp only [Instr.operands, List.forall_mem_cons] at hslots
    simp [operandsOf, encodeFields, fieldsOf, Instr.opcode, hslots]

/-- Fields that pass the tests are those of the command read from them (R66, R67): what the format does not use is 0. -/
theorem encodeFields_of_accepted {op : Opcode} {f : Fields} {i : Instr} (hf : f.Accepted op) (h : operandsOf op f = .ok i) :
    encodeFields i = f := by
  obtain ⟨hop, hrsv, hbp, hslots⟩ := hf
  obtain ⟨fop, rsv, bp, a, b, c, d, e⟩ := f
  simp only at hop hrsv hbp
  subst hop hrsv
  rcases BitVec.eq_zero_or_eq_one bp with rfl | rfl
  · cases op
    case setcoe =>
      simp only [operandsOf] at h
      split_ifs at h <;> cases h <;> simp_all [encodeFields, fieldsOf, unusedSlotsZero, Opcode.format, Format.uses]
    all_goals
      cases h
      simp_all [encodeFields, fieldsOf, intSlot_slotInt, unusedSlotsZero, Opcode.format, Format.uses]
  · rcases optionalBrightness_iff.mp (hbp rfl) with rfl | rfl <;>
      cases h <;>
      simp_all [encodeFields, fieldsOf, intSlot_slotInt, unusedSlotsZero, Opcode.format, Format.uses]

/-- The decoder and the encoder are inverse to each other on fields (R73). -/
theorem decodeFields_eq_ok_iff_encodeFields {f : Fields} {i : Instr} :
    decodeFields f = .ok i ↔ i.WellFormed ∧ encodeFields i = f := by
  rw [decodeFields_eq_ok_iff]
  constructor
  · rintro ⟨op, hf, h⟩
    refine ⟨fun x hx => ?_, encodeFields_of_accepted hf h⟩
    obtain ⟨slot, -, rfl⟩ := List.mem_map.mp ((operandsOf_spec h).2 hx)
    exact slotInt_fits slot
  · rintro ⟨hi, rfl⟩
    exact ⟨i.opcode, accepted_encodeFields i, operandsOf_encodeFields hi⟩

/-- The decoder and the encoder are inverse to each other on words (R73). -/
theorem decode_eq_ok_iff {w : CmdWord} {i : Instr} : decode w = .ok i ↔ i.WellFormed ∧ encode i = w := by
  rw [decode, decodeFields_eq_ok_iff_encodeFields]
  have hpack : encodeFields i = unpack w ↔ encode i = w :=
    ⟨fun h => by rw [encode, h, pack_unpack], fun h => by rw [← h, encode, unpack_pack]⟩
  rw [hpack]

/-- Settles O1: a command that fits is what its own word decodes to. -/
theorem decodeOfEncode : Obligations.DecodeOfEncode := fun _ hi => decode_eq_ok_iff.mpr ⟨hi, rfl⟩

/-- Settles O2: a word is that of the command it decodes to, and the command fits. -/
theorem encodeOfDecode : Obligations.EncodeOfDecode := fun _ _ h => decode_eq_ok_iff.mp h

/-! ### The legal words -/

/-- The fields of a legal word with this opcode: none of the five items of R71 holds of them. -/
structure Fields.Legal (f : Fields) (op : Opcode) : Prop extends f.Accepted op where
  flag : op = .setcoe → f.a = 0 ∨ f.a = 1

/-- A word decodes to a command of an opcode exactly when it is a legal word with that opcode (R71, R73). -/
theorem exists_decode_iff {w : CmdWord} {op : Opcode} : (∃ i, decode w = .ok i ∧ i.opcode = op) ↔ (unpack w).Legal op := by
  constructor
  · rintro ⟨i, hi, rfl⟩
    obtain ⟨op, hf, h⟩ := decodeFields_eq_ok_iff.mp hi
    cases (operandsOf_spec h).1
    exact ⟨hf, exists_operandsOf_iff.mp ⟨i, h⟩⟩
  · rintro ⟨hf, hflag⟩
    obtain ⟨i, h⟩ := exists_operandsOf_iff.mpr hflag
    exact ⟨i, decodeFields_eq_ok_iff.mpr ⟨op, hf, h⟩, (operandsOf_spec h).1⟩

/-- A word decodes to a command exactly when it is legal with some opcode. -/
theorem exists_decode_iff_exists_legal {w : CmdWord} : (∃ i, decode w = .ok i) ↔ ∃ op, (unpack w).Legal op := by
  simp only [← exists_decode_iff]
  exact ⟨fun ⟨i, hi⟩ => ⟨i.opcode, i, hi, rfl⟩, fun ⟨_, i, hi, _⟩ => ⟨i, hi⟩⟩

/-! ### The opcode table (R70) -/

/-- The fields of the bitwise AND of two words. -/
theorem unpack_and (w m : CmdWord) :
    unpack (w &&& m) =
      { op := (unpack w).op &&& (unpack m).op, rsv := (unpack w).rsv &&& (unpack m).rsv, bp := (unpack w).bp &&& (unpack m).bp,
        a := (unpack w).a &&& (unpack m).a, b := (unpack w).b &&& (unpack m).b, c := (unpack w).c &&& (unpack m).c,
        d := (unpack w).d &&& (unpack m).d, e := (unpack w).e &&& (unpack m).e } := by
  simp only [unpack, BitVec.extractLsb'_and]

/-- The mask of a slot in a row of the table: nothing of a slot that is used is tested, all of one that is not. -/
def slotMask (used : Bool) : Slot := if used then 0 else .allOnes 16

/-- A slot passes its mask exactly when it is used or 0. -/
@[simp] theorem and_slotMask_eq_zero {x : Slot} {used : Bool} : x &&& slotMask used = 0#16 ↔ used = true ∨ x = 0#16 := by
  cases used
  · rw [slotMask, if_neg Bool.false_ne_true, BitVec.and_allOnes]
    simp
  · simp [slotMask]

/-- The mask of the row of an opcode and a value of `BP`; of the flag of SETCOE all bits but the lowest are tested. -/
def rowMask (op : Opcode) (bp : BitVec 1) : Fields :=
  let (ua, ub, uc, ud, ue) := op.format.uses bp
  { op := .allOnes 8, rsv := .allOnes 7, bp := .allOnes 1, a := if op = .setcoe then 0xFFFE else slotMask ua,
    b := slotMask ub, c := slotMask uc, d := slotMask ud, e := slotMask ue }

/-- The flag of SETCOE passes its mask exactly when it is 0 or 1 (R71 item 5). -/
theorem and_flagMask_eq_zero {x : Slot} : x &&& 0xFFFE#16 = 0#16 ↔ x = 0#16 ∨ x = 1#16 := by
  constructor
  · intro h
    have hlow : x = x &&& 1#16 := calc
      x = x &&& (0xFFFE#16 ||| 1#16) := BitVec.and_allOnes.symm
      _ = x &&& 1#16 := by rw [BitVec.and_or_distrib_left, h, BitVec.zero_or]
    rw [hlow, BitVec.and_one_eq_setWidth_ofBool_getLsbD]
    cases x.getLsbD 0 <;> decide
  · rintro (rfl | rfl) <;> decide

/-- The row of an opcode and a value of `BP` (R70). -/
def rowOf (op : Opcode) (bp : BitVec 1) : OpRow :=
  { opcode := op, mask := pack (rowMask op bp), pattern := pack (fieldsOf op bp 0 0 0 0 0) }

/-- Every row of the table is that of its opcode and a value of `BP` that the opcode may carry (R65, R70). -/
theorem opcodeTable_rows :
    ∀ r ∈ opcodeTable, ∃ bp, r = rowOf r.opcode bp ∧ (bp = 1 → r.opcode.format.optionalBrightness = true) := by
  decide +kernel

/-- Every opcode has a row for each value of `BP` that it may carry (R65, R70). -/
theorem rowOf_mem_opcodeTable {op : Opcode} {bp : BitVec 1} (h : bp = 1 → op.format.optionalBrightness = true) :
    rowOf op bp ∈ opcodeTable := by
  revert h bp
  cases op <;> decide +kernel

/-- What a row asks of a word: its opcode, reserved bits 0, its `BP`, unused slots 0, and a flag that is 0 or 1 (R70). -/
theorem rowOf_matches_iff {op : Opcode} {bp : BitVec 1} {w : CmdWord} :
    (rowOf op bp).Matches w = true ↔
      (unpack w).op = op.code ∧ (unpack w).rsv = 0 ∧ (unpack w).bp = bp ∧ unusedSlotsZero op.format (unpack w) = true ∧
        (op = .setcoe → (unpack w).a = 0 ∨ (unpack w).a = 1) := by
  have hfields : (rowOf op bp).Matches w = true ↔ unpack (w &&& pack (rowMask op bp)) = fieldsOf op bp 0 0 0 0 0 := by
    rw [OpRow.Matches, beq_iff_eq, ← (Function.LeftInverse.injective pack_unpack).eq_iff, rowOf, unpack_pack]
  rw [hfields, unpack_and, unpack_pack]
  generalize unpack w = f
  simp only [rowMask, fieldsOf, unusedSlotsZero, Fields.mk.injEq, BitVec.and_allOnes]
  by_cases hbp : f.bp = bp
  · subst hbp
    rcases hslots : op.format.uses f.bp with ⟨ua, ub, uc, ud, ue⟩
    by_cases hop : op = .setcoe
    · subst hop
      cases hslots
      simp [and_flagMask_eq_zero, and_assoc, and_comm]
    · simp [hop, and_assoc]
  · simp [hbp]

/-- The rows that a word matches are those of the opcodes with which it is legal, and of its `BP` (R70, R71). -/
theorem row_matches_iff {r : OpRow} {w : CmdWord} :
    r ∈ opcodeTable ∧ r.Matches w = true ↔ (unpack w).Legal r.opcode ∧ r = rowOf r.opcode (unpack w).bp := by
  constructor
  · rintro ⟨hr, hw⟩
    obtain ⟨bp, hrow, hbp⟩ := opcodeTable_rows r hr
    rw [hrow] at hw
    obtain ⟨hop, hrsv, rfl, hslots, hflag⟩ := rowOf_matches_iff.mp hw
    exact ⟨⟨⟨hop, hrsv, hbp, hslots⟩, hflag⟩, hrow⟩
  · rintro ⟨⟨⟨hop, hrsv, hbp, hslots⟩, hflag⟩, hrow⟩
    rw [hrow]
    exact ⟨rowOf_mem_opcodeTable hbp, rowOf_matches_iff.mpr ⟨hop, hrsv, rfl, hslots, hflag⟩⟩

/-- The opcode of a legal word is the one its `OP` field numbers (R70). -/
theorem Fields.Legal.ofCode {f : Fields} {op : Opcode} (h : f.Legal op) : Opcode.ofCode f.op = some op := by
  rw [h.opcode, ofCode_code]

/-- A word matches at most one row of the table: its opcode and its `BP` fix the row (R70). -/
theorem length_matching_rows_le_one (w : CmdWord) : (opcodeTable.filter fun r => r.Matches w).length ≤ 1 := by
  have hnodup : opcodeTable.Nodup := by decide +kernel
  rw [← List.toFinset_card_of_nodup (hnodup.filter _), Finset.card_le_one]
  intro r hr r' hr'
  rw [List.mem_toFinset, List.mem_filter, row_matches_iff] at hr hr'
  obtain ⟨hlegal, hrow⟩ := hr
  obtain ⟨hlegal', hrow'⟩ := hr'
  have hop : r.opcode = r'.opcode := Option.some.inj (hlegal.ofCode.symm.trans hlegal'.ofCode)
  rw [hrow, hrow', hop]

/-- Settles O3: the rows a word matches are those of the opcodes with which it is legal, and there is at most one. -/
theorem legalWordsMatchExactlyOneRow : Obligations.LegalWordsMatchExactlyOneRow := by
  intro w
  have hrow : ∀ r ∈ opcodeTable, r.Matches w = true → ∃ i, decode w = .ok i ∧ i.opcode = r.opcode := fun r hr hw =>
    exists_decode_iff.mpr (row_matches_iff.mp ⟨hr, hw⟩).1
  refine ⟨⟨fun ⟨i, hi⟩ => ?_, fun ⟨r, hr, hw⟩ => ?_⟩, length_matching_rows_le_one w, hrow⟩
  · have hlegal : (unpack w).Legal i.opcode := exists_decode_iff.mp ⟨i, hi, rfl⟩
    exact ⟨rowOf i.opcode (unpack w).bp, row_matches_iff.mpr ⟨hlegal, rfl⟩⟩
  · obtain ⟨i, hi, -⟩ := hrow r hr hw
    exact ⟨i, hi⟩

/-! ### The illegal words (R71, R207) -/

/-- No two opcodes have the same number (R70). -/
theorem code_injective : Function.Injective Opcode.code := fun op op' h =>
  Option.some.inj (by rw [← ofCode_code op, ← ofCode_code op', h])

/-- What items 2 to 5 of R71 leave of the words with this opcode. -/
theorem legal_iff_of_opcode {f : Fields} {op : Opcode} (hop : f.op = op.code) :
    f.Legal op ↔ f.rsv = 0 ∧ (f.bp = 1 → op = .setpix ∨ op = .setpixs) ∧ unusedSlotsZero op.format f = true ∧
      (op = .setcoe → f.a = 0 ∨ f.a = 1) := by
  rw [← optionalBrightness_iff]
  constructor
  · rintro ⟨⟨-, hrsv, hbp, hslots⟩, hflag⟩
    exact ⟨hrsv, hbp, hslots, hflag⟩
  · rintro ⟨hrsv, hbp, hslots, hflag⟩
    exact ⟨⟨hop, hrsv, hbp, hslots⟩, hflag⟩

/-- The illegal words of R71 are those that are legal with no opcode. -/
theorem illegalWord_iff {w : CmdWord} : Machine.IllegalWord w ↔ ¬ ∃ op, (unpack w).Legal op := by
  simp only [Machine.IllegalWord]
  generalize unpack w = f
  cases hop : Opcode.ofCode f.op with
  | none =>
    simp only [true_or, true_iff, not_exists]
    intro op hlegal
    simp [hlegal.ofCode] at hop
  | some op =>
    have hcode : f.op = op.code := (code_of_ofCode hop).symm
    have hset (op' : Opcode) : f.op = op'.code ↔ op = op' := by rw [hcode, code_injective.eq_iff]
    have hpix : f.op = 0x20 ↔ op = .setpix := hset .setpix
    have hpixs : f.op = 0x21 ↔ op = .setpixs := hset .setpixs
    have hcoe : f.op = 0x41 ↔ op = .setcoe := hset .setcoe
    have hexists : (∃ op', f.Legal op') ↔ f.Legal op :=
      ⟨fun ⟨_, h⟩ => Option.some.inj (h.ofCode.symm.trans hop) ▸ h, fun h => ⟨op, h⟩⟩
    simp only [hexists, legal_iff_of_opcode hcode, ne_eq, hpix, hpixs, hcoe, reduceCtorEq, false_or, Option.some.injEq, exists_eq_left',
      ← Bool.not_eq_true, not_and_or, Classical.not_imp, not_or]

/-- A word is illegal exactly when the decoder rejects it (R71, R73). -/
theorem illegalWord_iff_exists_error {w : CmdWord} : Machine.IllegalWord w ↔ ∃ e, decode w = .error e := by
  rw [illegalWord_iff, ← exists_decode_iff_exists_legal]
  cases decode w <;> simp

/-- A word that the decoder rejects is answered with IllegalCommand, and nothing else happens (R207). -/
theorem Machine.takeWord_illegal {w : CmdWord} {e : Illegal} (hw : decode w = .error e) {s : Machine.State}
    (hs : Machine.Takes s) :
    Machine.takeWord w s = .next (s.respond (Machine.errWord .illegalCommand)) := by
  simp only [Machine.takeWord, hw]
  exact Machine.taken_eq hs _

/-- Settles O4: the decoder rejects the illegal words, and the port answers what it rejects. -/
theorem illegalWordsAreOnlyAnswered : Obligations.IllegalWordsAreOnlyAnswered := by
  refine fun w => ⟨illegalWord_iff_exists_error, fun s rest hs hh hw => ?_⟩
  obtain ⟨e, he⟩ := illegalWord_iff_exists_error.mp hw
  exact (Machine.step_takeWord hs hh).trans (Machine.takeWord_illegal he hs)

/-- Settles O5: the decoder runs on the ten words. -/
theorem specWordsDecode : Obligations.SpecWordsDecode := by
  unfold Obligations.SpecWordsDecode
  decide +kernel

end Sys2Proof
end

section
/-! PROOFS about the words on the wire (30_encoding.md): the pixel word, and the markers of a frame. -/

namespace Sys2Proof.Machine

open Sys2Proof

/-! ### The pixel word (R61) -/

/-- The two fields of the header byte: three bits of 1 and the encoded brightness (R141). -/
theorem header_fields (n : Nat) : (header n).extractLsb' 5 3 = 7 ∧ (header n).extractLsb' 0 5 = enc5 n := by
  unfold header
  generalize enc5 n = x
  revert x
  decide

/-- The bits of a word in sending order are its bits from the highest down (R41, R61). -/
theorem msbFirst_eq_map_range {w : Nat} (x : BitVec w) : msbFirst x = (List.range w).map fun j => x.getLsbD (w - 1 - j) := by
  apply List.ext_getElem
  · simp
  · intro j h₁ h₂
    have hj : j < w := by simpa using h₁
    simp [getElem_msbFirst, BitVec.getMsbD_eq_getLsbD, hj]

/-- Which byte of a pixel each field of its word is taken from (R61, R143). -/
theorem pixelWord_extract (p : Pixel) :
    (∀ start len, (pixelWord p).extractLsb' (24 + start) len = (header p.brt).extractLsb' start len) ∧
    (pixelWord p).extractLsb' 16 8 = p.b ∧ (pixelWord p).extractLsb' 8 8 = p.g ∧ (pixelWord p).extractLsb' 0 8 = p.r := by
  have hword : pixelWord p = header p.brt ++ p.b ++ p.g ++ p.r := rfl
  rw [hword]
  refine ⟨fun start len => ?_, ?_, ?_, BitVec.extractLsb'_append_eq_right⟩
  · rw [BitVec.extractLsb'_append_eq_of_le (by omega), BitVec.extractLsb'_append_eq_of_le (by omega),
      BitVec.extractLsb'_append_eq_of_le (by omega)]
    congr 1
    omega
  · rw [BitVec.extractLsb'_append_eq_of_le (by decide), BitVec.extractLsb'_append_eq_of_le (by decide)]
    exact BitVec.extractLsb'_append_eq_right
  · rw [BitVec.extractLsb'_append_eq_of_le (by decide)]
    exact BitVec.extractLsb'_append_eq_right

/-- Settles O30: the fields of the pixel word are read off its four bytes. -/
theorem pixelWordLayout : Obligations.PixelWordLayout := by
  refine ⟨fun p => ?_, by decide, by decide⟩
  obtain ⟨hheader, hb, hg, hr⟩ := pixelWord_extract p
  obtain ⟨hones, hbrt⟩ := header_fields p.brt
  exact ⟨(hheader 5 3).trans hones, (hheader 0 5).trans hbrt, hb, hg, hr, msbFirst_eq_map_range _⟩

/-! ### The markers (R63, R64) -/

/-- Settles O33: the first 65 and the last 73 positions of a frame are its markers. -/
theorem markersHoldTheDataLineAtZero : Obligations.MarkersHoldTheDataLineAtZero := by
  intro pix
  rw [frameOf_eq]
  constructor
  · rw [← List.map_take, List.take_range'_of_length_ge (by decide)]
    exact frame_start pix
  · rw [← List.map_drop, List.drop_range']
    exact frame_end pix

end Sys2Proof.Machine
end

section
/-! PROOFS about the commands on one pixel (40_pixel_ops.md). First the rules they share: what a command does on a bad index, and
on a legal one. -/

namespace Sys2Proof.Machine

open Sys2Proof

/-! ### The index operand (R100, R203) -/

/-- Every command with an index operand begins with the handle step (R100). -/
theorem exec_of_indexOperand {i : Instr} {x : Int} (hi : indexOperand i = some x) :
    ∃ body : PixelIndex → State → Result, ∀ s, exec i s = taken s fun s => (withIndex x s fun k => body k s).answer := by
  cases i
  case setpixs | setpixsBr | setbrt | clear | showFrame | setup | setcoe | teardown => cases hi
  all_goals
    cases hi
    exact ⟨_, fun _ => rfl⟩

/-- A bad index is answered, whatever the other operands are, and nothing else happens (R100, R203). -/
theorem exec_badIndex {i : Instr} {x : Int} {s : State} (hs : Takes s) (hi : indexOperand i = some x)
    (hx : ¬ (0 ≤ x ∧ x ≤ 7)) : exec i s = .next { s with resp := 0x03000000 } := by
  obtain ⟨body, hbody⟩ := exec_of_indexOperand hi
  rw [hbody, taken_eq hs, withIndex_bad hx]
  rfl

/-- On a legal index a command goes on with the pixel it names (R100). -/
theorem exec_legalIndex {i : Instr} {k : PixelIndex} {body : PixelIndex → State → Result}
    (h : ∀ s, exec i s = taken s fun s => (withIndex k.val s fun j => body j s).answer) {s : State} (hs : Takes s) :
    exec i s = .next (body k s).answer := by
  rw [h, taken_eq hs, withIndex_val]

/-- Every legal index operand names a pixel (R44, R100). -/
theorem exists_pixel_of_index {i : Int} (h : 0 ≤ i ∧ i ≤ 7) : ∃ k : PixelIndex, i = (k.val : Int) :=
  (index_cases i).resolve_right (not_not.mpr h)

/-! ### The setters of one colour (R101, R102, R103) -/

/-- Two rules for a command that tests an index, then a colour, and then rewrites that pixel: what it does on legal operands, and
on a bad colour. -/
theorem exec_colourSetter {command : Int → Int → Instr} {write : Byte → Pixel → Pixel}
    (h : ∀ i v s, exec (command i v) s = taken s fun s =>
      (withIndex i s fun k => withColor v s fun c => .done (s.pixWrite k (write c (s.pixRead k))) 0).answer)
    {s : State} (hs : Takes s) :
    (∀ (k : PixelIndex) (c : Byte),
      exec (command k.val c.toNat) s = .next { s with pix := s.pix.set k (write c s.pix[k]), resp := 0 }) ∧
    (∀ i v : Int, 0 ≤ i ∧ i ≤ 7 → ¬ (0 ≤ v ∧ v ≤ 255) →
      exec (command i v) s = .next { s with resp := 0x01000000 }) := by
  refine ⟨fun k c => ?_, fun i v hi hv => ?_⟩
  · rw [exec_legalIndex (h _ _) hs, withColor_toNat]
    rfl
  · obtain ⟨k, rfl⟩ := exists_pixel_of_index hi
    rw [exec_legalIndex (h _ _) hs, withColor_bad hv]
    rfl

/-- Settles O11: the three setters share their rules, and a bad index is the same for all commands. -/
theorem colourSettersWriteOneChannel : Obligations.ColourSettersWriteOneChannel := by
  intro s hs
  obtain ⟨red, badRed⟩ := exec_colourSetter (command := .setr) (write := fun c p => { p with r := c }) (fun _ _ _ => rfl) hs
  obtain ⟨green, badGreen⟩ := exec_colourSetter (command := .setg) (write := fun c p => { p with g := c }) (fun _ _ _ => rfl) hs
  obtain ⟨blue, badBlue⟩ := exec_colourSetter (command := .setb) (write := fun c p => { p with b := c }) (fun _ _ _ => rfl) hs
  refine ⟨fun k c => ⟨red k c, green k c, blue k c⟩, fun i v hi => ?_, fun i v hi hv => ?_⟩
  · exact ⟨exec_badIndex hs rfl hi, exec_badIndex hs rfl hi, exec_badIndex hs rfl hi⟩
  · exact ⟨badRed i v hi hv, badGreen i v hi hv, badBlue i v hi hv⟩

/-! ### PSETBR, SETRGBB and PCLR (R104, R105, R106) -/

/-- Settles O12, operand by operand in the order in which they are tested. -/
theorem psetbrWritesBrightness : Obligations.PsetbrWritesBrightness := by
  intro s hs
  have body (k : PixelIndex) (br : Int) : exec (.psetbr k.val br) s = .next (setBrightnessAt br k s).answer :=
    exec_legalIndex (body := setBrightnessAt br) (fun _ => rfl) hs
  refine ⟨fun k n hn => ?_, fun i br hi => exec_badIndex hs rfl hi, fun i br hi hbr => ?_⟩
  · rw [body, setBrightnessAt, withBrightness_natCast hn]
    rfl
  · obtain ⟨k, rfl⟩ := exists_pixel_of_index hi
    rw [body, setBrightnessAt, withBrightness_bad hbr]
    rfl

/-- On a legal index SETRGBB tests the colours, then the brightness, and then makes its one write (R105). -/
theorem exec_setrgbb_legalIndex {s : State} (hs : Takes s) (k : PixelIndex) (r g b br : Int) :
    exec (.setrgbb k.val r g b br) s = .next
      (withColors r g b s fun r g b => withBrightness br s fun n =>
        .done (s.pixWrite k { r := r, g := g, b := b, brt := n }) 0).answer :=
  exec_legalIndex (body := fun k s => withColors r g b s fun r g b => withBrightness br s fun n =>
    .done (s.pixWrite k { r := r, g := g, b := b, brt := n }) 0) (fun _ => rfl) hs

/-- Settles O13, operand by operand in the order in which they are tested. -/
theorem setrgbbIsAllOrNothing : Obligations.SetrgbbIsAllOrNothing := by
  refine fun s hs => ⟨fun k r g b n hn => ?_, fun i r g b br hi => exec_badIndex hs rfl hi,
    fun i r g b br hi hcol => ?_, fun i r g b br hi hcol hbr => ?_⟩
  · rw [exec_setrgbb_legalIndex hs, withColors_toNat, withBrightness_natCast hn]
    rfl
  · obtain ⟨k, rfl⟩ := exists_pixel_of_index hi
    rw [exec_setrgbb_legalIndex hs, withColors_bad hcol]
    rfl
  · obtain ⟨k, rfl⟩ := exists_pixel_of_index hi
    obtain ⟨x, y, z, rfl, rfl, rfl⟩ := (colors_cases r g b).resolve_right (not_not.mpr hcol)
    rw [exec_setrgbb_legalIndex hs, withColors_toNat, withBrightness_bad hbr]
    rfl

/-- The word of a pixel whose colours are 0 has only its header byte (R106, R141). -/
theorem pixelWord_dark (n : Nat) :
    pixelWord { r := 0, g := 0, b := 0, brt := n } = 0xE0000000 ||| ((enc5 n).setWidth 32 <<< 24) := by
  simp only [pixelWord, header]
  generalize enc5 n = x
  revert x
  decide

/-- Settles O14: after a legal index PCLR cannot fail. -/
theorem pclrKeepsBrightness : Obligations.PclrKeepsBrightness := by
  refine ⟨fun s hs => ⟨fun k => ?_, fun i hi => exec_badIndex hs rfl hi⟩, pixelWord_dark⟩
  exact exec_legalIndex (body := clearAt) (fun _ => rfl) hs

/-! ### The getters (R107 to R112) -/

/-- A response value is zero-extended to the response word (R72, R112). -/
theorem okWord_eq_setWidth (v : BitVec 16) : okWord v = v.setWidth 32 := by
  rw [BitVec.setWidth_eq_append (by decide)]
  rfl

/-- The mask of the colour getters loses nothing (R107). -/
theorem okWord_colorValue (c : Byte) : okWord (colorValue c) = c.setWidth 32 := by
  have hmask : c &&& Config.chMask = c := BitVec.and_allOnes
  rw [okWord_eq_setWidth, colorValue, hmask, BitVec.setWidth_setWidth (by decide)]

/-- A getter of a pixel answers with what it reads, and changes nothing but the response (R15, R112). -/
theorem exec_getter {get : Int → Instr} {read : Pixel → BitVec 16}
    (h : ∀ i s, exec (get i) s = taken s fun s => (getBody read i s).answer) {s : State} (hs : Takes s) (k : PixelIndex) :
    exec (get k.val) s = .next { s with resp := okWord (read s.pix[k]) } :=
  exec_legalIndex (body := fun k s => .done s (read (s.pixRead k))) (h k.val) hs

/-- Settles O15: what each getter reads, as a response word. -/
theorem gettersAnswerTheField : Obligations.GettersAnswerTheField := by
  refine fun s hs => ⟨fun k => ⟨?red, ?green, ?blue, ?encoded, fun hbrt => ?thousandths⟩, fun i hi => ?badIndex⟩
  case red => rw [exec_getter (fun _ _ => rfl) hs, okWord_colorValue]
  case green => rw [exec_getter (fun _ _ => rfl) hs, okWord_colorValue]
  case blue => rw [exec_getter (fun _ _ => rfl) hs, okWord_colorValue]
  case encoded =>
    rw [exec_getter (fun _ _ => rfl) hs, okWord_eq_setWidth, BitVec.setWidth_setWidth (by decide)]
  case thousandths =>
    rw [exec_getter (fun _ _ => rfl) hs, okWord_eq_setWidth, BitVec.setWidth_ofNat_of_le_of_lt (by decide) (by omega)]
  case badIndex =>
    exact ⟨exec_badIndex hs rfl hi, exec_badIndex hs rfl hi, exec_badIndex hs rfl hi, exec_badIndex hs rfl hi,
      exec_badIndex hs rfl hi⟩

end Sys2Proof.Machine
end

section
/-! PROOFS about the commands on one pixel (40_pixel_ops.md): the errors that a command can answer, and that the error of a bad
index is only answered by a command that has an index. -/

namespace Sys2Proof.Machine

open Sys2Proof

/-! ### The answers of a command (R72, R200) -/

/-- The errors that a command can end with (R200 to R206): those of an operand it has, and those of a setup. -/
def CanRaise (i : Instr) : Err → Prop
  | .invalidPixelIndex => indexOperand i ≠ none
  | .invalidColorValue => colorOperands i ≠ []
  | .invalidBrightnessLevel => brightnessOperand i ≠ none
  | .invalidGpioPin => ∃ d c, i = .setup d c
  | .gpioAcquireFailed => (∃ d c, i = .setup d c) ∨ i = .showFrame ∨ i = .teardown
  | .gpioWriteFailed | .illegalCommand => False

/-- The response is one with which the command can end: a value, or an error that it can raise (R72, R210). -/
def AnswerOf (i : Instr) (w : RespWord) : Prop := (∃ v, w = okWord v) ∨ ∃ e, w = errWord e ∧ CanRaise i e

theorem AnswerOf.ok (i : Instr) (v : BitVec 16) : AnswerOf i (okWord v) := .inl ⟨v, rfl⟩

theorem AnswerOf.err {i : Instr} {e : Err} (h : CanRaise i e) : AnswerOf i (errWord e) := .inr ⟨e, rfl, h⟩

/-- The response with which a command ends (R72, R150, R184). -/
@[simp] theorem finish_resp (owner : FrameOwner) (err : Option Err) (s : State) :
    (finish owner err s).resp = err.elim (okWord 0) errWord := by
  cases owner <;> cases err <;> rfl

/-- A buffer command answers a value or the error of one of its operands (R126). -/
theorem answerOf_buffer {i : Instr} {s : State} {x : Result} (h : BufferEnd i s x) : AnswerOf i x.answer.resp := by
  rcases h with ⟨pix, v, rfl, -⟩ | ⟨e, rfl, ⟨rfl, hop⟩ | ⟨rfl, hop⟩ | ⟨rfl, hop⟩⟩
  · exact .ok i v
  all_goals exact .err hop

theorem answerOf_setup (d c : Int) (s : State) : AnswerOf (.setup d c) (setupBody d c s).answer.resp := by
  rcases setupBody_cases d c s with e | ⟨m, n, -, -, -, e | e | e⟩ <;> rw [e]
  · exact .err ⟨d, c, rfl⟩
  · exact .err (.inl ⟨d, c, rfl⟩)
  · exact .err (.inl ⟨d, c, rfl⟩)
  · exact .ok _ 0

/-- SHOW's work, once it has ended, has answered 0 or that its lazy setup failed (R150, R182). -/
theorem answerOf_sendFrame (owner : FrameOwner) (s : State) :
    (sendFrame owner s).tx = .idle → AnswerOf owner.command (sendFrame owner s).resp := by
  have refused (u : State) : AnswerOf owner.command (finish owner (some .gpioAcquireFailed) u).resp := by
    rw [finish_resp]
    exact .err (.inr owner.command_eq)
  refine sendFrame_keeps (P := fun u => u.tx = .idle → AnswerOf owner.command u.resp) owner s
    ?ready ?lazily ?refused ?refused' ?micro
  case ready => exact fun _ h => by cases h
  case lazily => exact fun _ h => by cases h
  case refused => exact fun _ _ => refused _
  case refused' => exact fun _ _ => refused _
  case micro =>
    intro u o n hu _ hidle
    obtain ⟨w, ebuf, sr, ⟨_, e⟩ | ⟨-, e⟩⟩ := txStep_shape hu <;> rw [e] at hidle ⊢
    · cases hidle
    · rw [finish_resp]
      exact .ok _ 0

/-- A command that has ended has answered a value or an error that it can raise (R72, R210). -/
theorem exec_answer {i : Instr} {s t : State} (h : exec i s = .next t) (ht : t.tx = .idle) : AnswerOf i t.resp := by
  by_cases hb : isBufferCommand i = true
  · obtain ⟨body, hbody, hend⟩ := exec_buffer i hb
    obtain ⟨-, rfl⟩ := taken_eq_next.mp (hbody s ▸ h)
    exact answerOf_buffer (hend s)
  · cases i with
    | setup d c =>
      obtain ⟨-, rfl⟩ := taken_eq_next.mp (exec_setup d c s ▸ h)
      exact answerOf_setup d c s
    | setcoe f =>
      obtain ⟨-, rfl⟩ := taken_eq_next.mp (exec_setcoe f s ▸ h)
      exact .ok _ 0
    | showFrame =>
      obtain ⟨-, rfl⟩ := taken_eq_next.mp (exec_showFrame s ▸ h)
      exact answerOf_sendFrame .byShow s ht
    | teardown =>
      obtain ⟨-, rfl⟩ := taken_eq_next.mp (exec_teardown s ▸ h)
      cases hcoe : s.coe with
      | true =>
        simp only [hcoe, if_true] at ht ⊢
        exact answerOf_sendFrame .byTeardown (cleared s) ht
      | false => exact .ok _ 0
    | _ => exact absurd rfl hb

/-! ### The status tells the error (R200) -/

/-- No two errors have the same code (R200). -/
theorem Err.code_injective : Function.Injective Err.code := by
  intro e e'
  cases e <;> cases e' <;> decide

/-- The code of an error is not the status of success (R72, R200). -/
theorem Err.code_ne_zero (e : Err) : e.code ≠ 0 := by
  cases e <;> decide

/-- A command answers the status of an error only if it can raise that error. -/
theorem AnswerOf.canRaise {i : Instr} {w : RespWord} {e : Err} (h : AnswerOf i w) (hw : respStatus w = e.code) : CanRaise i e := by
  rcases h with ⟨v, rfl⟩ | ⟨e', rfl, he'⟩
  · exact absurd (hw.symm.trans (respStatus_okWord v)) e.code_ne_zero
  · have he : e' = e := Err.code_injective ((respStatus_errWord e').symm.trans hw)
    exact he ▸ he'

/-- Settles O17: a bad index ends the handle step, which comes first; and only a command with an index can raise its error. -/
theorem indexIsTestedFirst : Obligations.IndexIsTestedFirst :=
  ⟨fun _ _ _ hs hi hx => exec_badIndex hs hi hx, fun _ _ _ hi h ht hstatus =>
    absurd hi ((exec_answer h ht).canRaise (e := .invalidPixelIndex) hstatus)⟩

end Sys2Proof.Machine
end

section
/-! PROOFS about the commands on the strip (41_strip_ops.md). SETPIXS is a loop of SETPIX, so that the rules of SETPIX come first. -/

namespace Sys2Proof.Machine

open Sys2Proof

/-- A block that takes a command ends it as its pseudocode ends (R8, R47). -/
theorem exec_eq_next_answer {i : Instr} {body : State → Result} {s : State} {x : Result} (hs : Takes s) (hx : body s = x)
    (hi : exec i s = taken s fun s => (body s).answer) : exec i s = .next x.answer := by
  rw [hi, taken_eq hs, hx]

/-! ### SETPIX (R120, R69) -/

/-- SETPIX with legal operands and no brightness keeps that of the pixel (R69, R120). -/
theorem setpixBody_none (k : PixelIndex) (r g b : Byte) (s : State) :
    setpixBody k.val r.toNat g.toNat b.toNat none s =
      .done (s.pixWrite k { r := r, g := g, b := b, brt := (s.pixRead k).brt }) 0 := by
  rw [setpixBody, withIndex_val, withColors_toNat]

/-- SETPIX with legal operands and a legal brightness (R120). -/
theorem setpixBody_some (k : PixelIndex) (r g b : Byte) {n : Nat} (hn : n ≤ 1000) (s : State) :
    setpixBody k.val r.toNat g.toNat b.toNat (some (n : Int)) s =
      .done (s.pixWrite k { r := r, g := g, b := b, brt := n }) 0 := by
  rw [setpixBody, withIndex_val, withColors_toNat]
  exact withBrightness_natCast hn ..

theorem setpixBody_badColor (k : PixelIndex) {r g b : Int}
    (h : ¬ ((0 ≤ r ∧ r ≤ 255) ∧ (0 ≤ g ∧ g ≤ 255) ∧ (0 ≤ b ∧ b ≤ 255))) (br : Option Int) (s : State) :
    setpixBody k.val r g b br s = .raised s .invalidColorValue := by
  rw [setpixBody, withIndex_val, withColors_bad h]

theorem setpixBody_badBrightness (k : PixelIndex) (r g b : Byte) {n : Int} (h : ¬ (0 ≤ n ∧ n ≤ 1000)) (s : State) :
    setpixBody k.val r.toNat g.toNat b.toNat (some n) s = .raised s .invalidBrightnessLevel := by
  rw [setpixBody, withIndex_val, withColors_toNat]
  exact withBrightness_bad h ..

/-- Settles O20: on legal operands every test of SETPIX passes, and its one write is left. -/
theorem setpixWritesOnePixel : Obligations.SetpixWritesOnePixel := fun s hs =>
  ⟨fun k r g b => exec_eq_next_answer hs (setpixBody_none k r g b s) rfl,
    fun k r g b _ hn => exec_eq_next_answer hs (setpixBody_some k r g b hn s) rfl⟩

/-- The mask of the 5-bit code loses nothing that its width keeps (R140). -/
theorem enc5_eq_ofNat (n : Nat) : enc5 n = BitVec.ofNat 5 (31 * n / 1000) := by
  apply BitVec.eq_of_toNat_eq
  have hmask : (31 * n / 1000) &&& 31 = 31 * n / 1000 % 2 ^ 5 := Nat.and_two_pow_sub_one_eq_mod (31 * n / 1000) 5
  simp [enc5, hmask]

/-- The code of a legal brightness as a response word (R110, R112, R140). -/
theorem setWidth_enc5 {n : Nat} (hn : n ≤ 1000) : (enc5 n).setWidth 32 = BitVec.ofNat 32 (31 * n / 1000) := by
  rw [enc5_eq_ofNat, BitVec.setWidth_ofNat_of_le_of_lt (by decide) (by omega)]

/-- What the five getters answer about a pixel whose record is known (R107 to R111). -/
theorem getters_answer_record {s : State} {k : PixelIndex} {r g b : Byte} {n : Nat} (hs : Takes s)
    (hk : s.pix[k] = { r := r, g := g, b := b, brt := n }) (hn : n ≤ 1000) :
    exec (.getr k.val) s = .next { s with resp := r.setWidth 32 } ∧
    exec (.getg k.val) s = .next { s with resp := g.setWidth 32 } ∧
    exec (.getb k.val) s = .next { s with resp := b.setWidth 32 } ∧
    exec (.getbr k.val) s = .next { s with resp := BitVec.ofNat 32 (31 * n / 1000) } ∧
    exec (.getbrv k.val) s = .next { s with resp := BitVec.ofNat 32 n } := by
  obtain ⟨red, green, blue, encoded, thousandths⟩ := (gettersAnswerTheField s hs).1 k
  rw [hk] at red green blue encoded thousandths
  rw [setWidth_enc5 hn] at encoded
  exact ⟨red, green, blue, encoded, thousandths hn⟩

/-- Settles O21: the getters read the record that SETPIX has written. -/
theorem setpixReadsBack : Obligations.SetpixReadsBack := fun s k r g b n hs hn =>
  ⟨_, (setpixWritesOnePixel s hs).2 k r g b n hn, getters_answer_record hs (Vector.getElem_set_self k.isLt) hn⟩

/-! ### SETPIXS (R121, R125) -/

/-- Settles O22: with legal operands the loop of SETPIXS rewrites every record. -/
theorem setpixsWritesEveryPixel : Obligations.SetpixsWritesEveryPixel := by
  refine fun s r g b hs => ⟨exec_eq_next_answer hs (setpixsBody_none r g b s) rfl, fun n hn => ?_⟩
  rw [← Vector.map_const' (xs := s.pix)]
  exact exec_eq_next_answer hs (setpixsBody_some r g b hn s) rfl

/-- The verdict of SETPIX is the same for every pixel and in every state (R125): its operands are refused with nothing done, or
each record gets the colours, and the brightness if one is given. -/
theorem setpixBody_verdict (r g b : Int) (br : Option Int) :
    (∃ e, ∀ (k : PixelIndex) (s : State), setpixBody k.val r g b br s = .raised s e) ∨
    ∃ write : Pixel → Pixel,
      (∀ (k : PixelIndex) (s : State), setpixBody k.val r g b br s = .done (s.pixWrite k (write (s.pixRead k))) 0) ∧
      ∀ p, ((write p).r.toNat : Int) = r ∧ ((write p).g.toNat : Int) = g ∧ ((write p).b.toNat : Int) = b ∧
        ((write p).brt : Int) = br.getD p.brt := by
  rcases colors_cases r g b with ⟨r, g, b, rfl, rfl, rfl⟩ | hcol
  · cases br with
    | none => exact .inr ⟨fun p => { r := r, g := g, b := b, brt := p.brt }, fun k => setpixBody_none k r g b,
        fun _ => ⟨rfl, rfl, rfl, rfl⟩⟩
    | some n =>
      rcases brightness_cases n with ⟨n, hn, rfl⟩ | hbrt
      · exact .inr ⟨fun _ => { r := r, g := g, b := b, brt := n }, fun k => setpixBody_some k r g b hn,
          fun _ => ⟨rfl, rfl, rfl, rfl⟩⟩
      · exact .inl ⟨_, fun k => setpixBody_badBrightness k r g b hbrt⟩
  · exact .inl ⟨_, fun k => setpixBody_badColor k hcol br⟩

/-- An error is never answered with the word of success (R72, R200). -/
theorem errWord_ne_zero (e : Err) : errWord e ≠ 0 := fun h =>
  e.code_ne_zero ((respStatus_errWord e).symm.trans (congrArg respStatus h))

/-- Settles O23: the loop of SETPIXS stops at record 0 or never, for the verdict is the same for every record. -/
theorem setpixsChangesAllOrNone : Obligations.SetpixsChangesAllOrNone := by
  intro s r g b br hs
  refine ⟨(setpixsBody r g b br s).answer, (setpixBody 0 r g b br s).answer, ?strip, ?first, ?outcome⟩
  case strip => cases br <;> exact exec_eq_next_answer hs rfl rfl
  case first => cases br <;> exact exec_eq_next_answer hs rfl rfl
  case outcome =>
    rcases setpixBody_verdict r g b br with ⟨e, hfail⟩ | ⟨write, hpass, hwrite⟩
    · have hstrip : setpixsBody r g b br s = .raised s e := forPixels_raised e _ hfail s
      have hfirst : setpixBody 0 r g b br s = .raised s e := hfail 0 s
      rw [hstrip, hfirst]
      exact ⟨rfl, .inl ⟨errWord_ne_zero e, rfl⟩⟩
    · have hstrip : setpixsBody r g b br s = .done { s with pix := s.pix.map write } 0 := forPixels_done write _ hpass s
      have hfirst : setpixBody 0 r g b br s = .done (s.pixWrite 0 (write (s.pixRead 0))) 0 := hpass 0 s
      rw [hstrip, hfirst]
      refine ⟨rfl, .inr ⟨okWord_zero, fun k => ?_⟩⟩
      have hk : (s.pix.map write)[k] = write s.pix[k] := Vector.getElem_map ..
      exact hk ▸ hwrite s.pix[k]

/-! ### SETBRT, CLEAR and GETPIX (R122, R123, R124) -/

/-- Settles O24: the loop of SETBRT on a legal brightness, and on one that fails at record 0. -/
theorem setbrtWritesEveryPixel : Obligations.SetbrtWritesEveryPixel := fun s hs =>
  ⟨fun _ hn => exec_eq_next_answer hs (setbrtBody_legal hn s) rfl,
    fun _ hbr => exec_eq_next_answer hs (setbrtBody_bad hbr s) rfl⟩

/-- CLEAR writes the cleared buffer (R123). -/
theorem exec_clear {s : State} (hs : Takes s) : exec .clear s = .next { s with pix := clearedPixels s.pix, resp := 0 } :=
  exec_eq_next_answer hs (clearBody_eq s) rfl

/-- Settles O25: no test stands in CLEAR's loop, so that it comes to its end. -/
theorem clearKeepsEveryBrightness : Obligations.ClearKeepsEveryBrightness := fun _ hs =>
  ⟨_, exec_clear hs, rfl, rfl, fun _ => Vector.getElem_map ..⟩

/-- Settles O26: after a legal index GETPIX has only its answer to give, which fits the response value. -/
theorem getpixAnswersTheIndex : Obligations.GetpixAnswersTheIndex := by
  refine fun s hs => ⟨fun k => ?_, fun i hi => exec_badIndex hs rfl hi⟩
  have hk : k.val < 8 := k.isLt
  have hresp : okWord (BitVec.ofNat 16 k.val) = BitVec.ofNat 32 k.val := by
    rw [okWord_eq_setWidth, BitVec.setWidth_ofNat_of_le_of_lt (by decide) (by omega)]
  rw [exec_legalIndex (body := fun k s => .done s (BitVec.ofNat 16 k.val)) (fun _ => rfl) hs, ← hresp]
  rfl

/-! ### All buffer commands (R126) -/

/-- The pixels that a buffer command leaves and its response are a function of the pixels it finds, and it changes nothing
else. -/
theorem exec_buffer_function {i : Instr} (hb : isBufferCommand i = true) :
    ∃ f : Vector Pixel Config.nPixels → Vector Pixel Config.nPixels × RespWord,
      ∀ s, Takes s → exec i s = .next { s with pix := (f s.pix).1, resp := (f s.pix).2 } := by
  obtain ⟨body, hbody, f, hf⟩ := exec_buffer_onPixels i hb
  exact ⟨f, fun s hs => by rw [hbody, taken_eq hs, hf]⟩

/-- Settles O27: two states with the same pixels give the function the same argument. -/
theorem bufferCommandsWorkOnTheBufferOnly : Obligations.BufferCommandsWorkOnTheBufferOnly := by
  intro i hb
  obtain ⟨f, hf⟩ := exec_buffer_function hb
  refine ⟨fun s hs => ⟨_, hf s hs, rfl⟩, fun s u hs hu hpix => ⟨_, _, hf s hs, hf u hu, ?_⟩⟩
  rw [hpix]
  exact ⟨rfl, rfl⟩

end Sys2Proof.Machine
end

section
/-! PROOFS about the encoder (42_encoder.md): the code of a brightness, the header byte, and that SHOW sends nothing but the
encoding of the buffer. -/

namespace Sys2Proof.Machine

open Sys2Proof

/-! ### The encoded brightness (R140, R146) -/

/-- The five bits hold the whole code of a legal brightness (R140). -/
theorem enc5_toNat {n : Nat} (hn : n ≤ 1000) : (enc5 n).toNat = 31 * n / 1000 := by
  have hcode : 31 * n / 1000 < 2 ^ 5 := by omega
  rw [enc5_eq_ofNat, BitVec.toNat_ofNat, Nat.mod_eq_of_lt hcode]

/-- Settles O28: the code is the quotient itself, and `31 * n` lies in the band of width 1000 that its quotient names. -/
theorem encodedBrightnessIsTheFloor : Obligations.EncodedBrightnessIsTheFloor := by
  intro n hn
  rw [enc5_toNat hn]
  refine ⟨rfl, fun k => ?threshold, ?full⟩
  case threshold => rw [Nat.div_eq_iff (by decide)]; omega
  case full => omega

/-! ### The header byte (R141) -/

/-- The three fixed bits have none in common with a code, so the OR of the two is their sum. -/
theorem header_eq_add (n : Nat) : header n = 0xE0 + (enc5 n).setWidth 8 := by
  have hdisjoint : ∀ code : BitVec 5, (0xE0 : Byte) &&& code.setWidth 8 = 0#8 := by decide
  exact (BitVec.add_eq_or_of_and_eq_zero _ _ (hdisjoint (enc5 n))).symm

theorem header_toNat (n : Nat) : (header n).toNat = 0xE0 + (enc5 n).toNat := by
  have hcode : (enc5 n).toNat < 2 ^ 5 := (enc5 n).isLt
  have hfixed : (0xE0 : Byte).toNat = 0xE0 := rfl
  have hwiden : ((enc5 n).setWidth 8).toNat = (enc5 n).toNat := BitVec.toNat_setWidth_of_le (by decide)
  rw [header_eq_add, BitVec.toNat_add_of_lt (by omega), hfixed, hwiden]

/-- Settles O29: the two fields of the byte, and the range of its sum from the range of the code. -/
theorem headerByteIsPrefixAndBrightness : Obligations.HeaderByteIsPrefixAndBrightness := by
  intro n
  obtain ⟨hones, hcode⟩ := header_fields n
  have hsum := header_toNat n
  have hlt : (enc5 n).toNat < 2 ^ 5 := (enc5 n).isLt
  exact ⟨rfl, hones, hcode, hsum, by omega, by omega⟩

/-! ### SHOW on a ready block (R144, R151, R158) -/

/-! The end of a SHOW makes no event of its own. -/

@[simp] theorem toIdle_trace (s : State) : s.toIdle.trace = s.trace := rfl
@[simp] theorem finish_byShow_trace (err : Option Err) (s : State) : (finish .byShow err s).trace = s.trace := by
  cases err <;> rfl

/-- A SHOW that a ready block has run, and that no reset cut, adds the writes of the frame of its buffer to the trace, and no
other event (R150, R158). -/
theorem exec_showFrame_trace {s t : State} (hr : s.ready = true) (hu : FrameUncut s) (h : exec .showFrame s = .next t) :
    t.trace = s.trace ++ setEvents (frameOf s.pix) := by
  obtain ⟨-, rfl⟩ := taken_eq_next.mp (exec_showFrame s ▸ h)
  rw [sendFrame_ready .byShow hr hu, finish_byShow_trace, toIdle_trace, writeAll_trace]

theorem length_setEvents (ws : List LineWrite) : (setEvents ws).length = ws.length := List.length_map ..

/-- Settles O41: the events are those of the frame of the buffer, which is the same in both states. -/
theorem showDependsOnThePixelsOnly : Obligations.ShowDependsOnThePixelsOnly := by
  intro s u s' u' hpix hrs hru hus huu hs hu
  refine ⟨setEvents (frameOf s.pix), exec_showFrame_trace hrs hus hs, ?_, ?_⟩
  · rw [hpix]
    exact exec_showFrame_trace hru huu hu
  · rw [length_setEvents, length_frameOf]

end Sys2Proof.Machine
end

section
/-! PROOFS about the transmitter (43_transmitter.md): the micro-step, and the steps of a whole frame. -/

namespace Sys2Proof.Machine

open Sys2Proof

/-! ### One micro-step (R156) -/

/-- A micro-step before the frame's last position: its line write is the one event, and the position moves by one. -/
theorem txStep_within {s : State} {owner : FrameOwner} {n : Fin Config.frameWrites} (ht : s.tx = .sending owner n)
    (hc : ShiftCoherent s) (h : n.val + 1 < Config.frameWrites) :
    (txStep s).tx = .sending owner ⟨n.val + 1, h⟩ ∧
    (txStep s).trace = s.trace ++ [.set (lineAt s.pix n).1 (lineAt s.pix n).2] := by
  rcases txStep_eq ht hc with ⟨_, ebuf, sr, e, -⟩ | ⟨hlast, -⟩
  · rw [e]
    exact ⟨rfl, written_trace s _⟩
  · omega

/-- The micro-step of the frame's last position: the command whose frame it was ends (R150, R184). -/
theorem txStep_last {s : State} {owner : FrameOwner} {n : Fin Config.frameWrites} (ht : s.tx = .sending owner n)
    (hc : ShiftCoherent s) (h : n.val + 1 = Config.frameWrites) :
    txStep s = finish owner none (s.written (lineAt s.pix n)).toIdle := by
  rcases txStep_eq ht hc with ⟨hlt, -⟩ | ⟨-, e⟩
  · omega
  · exact e

/-- A micro-step changes the level of the line it writes, and of that line only (R24). -/
theorem txStep_levels {s : State} {owner : FrameOwner} {n : Fin Config.frameWrites} (ht : s.tx = .sending owner n)
    (hc : ShiftCoherent s) :
    ((lineAt s.pix n).1 = .dat →
      (txStep s).lvlDat = Level.ofBit (lineAt s.pix n).2 ∧ (txStep s).lvlClk = s.lvlClk) ∧
    ((lineAt s.pix n).1 = .clk →
      (txStep s).lvlClk = Level.ofBit (lineAt s.pix n).2 ∧ (txStep s).lvlDat = s.lvlDat) := by
  have hwritten := written_levels s (lineAt s.pix n)
  rcases txStep_eq ht hc with ⟨_, ebuf, sr, e, -⟩ | ⟨-, e⟩ <;> rw [e]
  · exact hwritten
  · simpa using hwritten

/-- TEARDOWN's end ends the life (R23, R184). -/
theorem finish_byTeardown_life (err : Option Err) (s : State) : (finish .byTeardown err s).life = .released := by
  obtain ⟨_, _, _, _, h⟩ := finish_spec .byTeardown err s; rw [h]

/-- TEARDOWN's end releases the handles the block holds, data first (R184). -/
theorem finish_byTeardown_trace {s : State} {d c : Nat} (hr : s.ready = true) (hd : s.dataPin = some d)
    (hc : s.clkPin = some c) : (finish .byTeardown none s).trace = s.trace ++ [.rel d, .rel c] := by
  rw [finish, teardownTail_ready hr hd hc]
  simp [State.trace]

/-- EBUF and SR are again as the position after the micro-step needs them; Idle needs nothing (R25, R153). -/
theorem ShiftCoherent.txStep {s : State} {owner : FrameOwner} {n : Fin Config.frameWrites} (hc : ShiftCoherent s)
    (ht : s.tx = .sending owner n) : ShiftCoherent (txStep s) := by
  rcases txStep_eq ht hc with ⟨_, _, _, -, hcoherent⟩ | ⟨-, e⟩
  · exact hcoherent
  · intro o m hm
    rw [e, finish_tx] at hm
    cases hm

/-- Settles O36, position by position: before the last one the frame goes on, at the last one its command ends. -/
theorem microStepMakesOneLineWrite : Obligations.MicroStepMakesOneLineWrite := by
  intro s owner n ht hc hd
  obtain ⟨hdat, hclk⟩ := txStep_levels ht hc
  refine ⟨txStep s, lineAt s.pix n, step_sending ht hd, getElem?_frameOf s.pix n, (sameControl_txStep ht).pix, hc.txStep ht,
    hdat, hclk, fun hn => ?within, fun hn => ?last⟩
  case within =>
    obtain ⟨htx, htrace⟩ := txStep_within ht hc (Nat.succ_lt_succ hn)
    exact ⟨htrace, by rw [htx]; rfl, _, htx⟩
  case last =>
    have htrace := written_trace s (lineAt s.pix n)
    obtain ⟨hready, -, hdata, hclock, -⟩ := written_control s (lineAt s.pix n)
    rw [txStep_last ht hc (congrArg Nat.succ hn)]
    refine ⟨by simp, by simp, ?byShow, ?byTeardown⟩
    case byShow =>
      rintro rfl
      rw [finish_byShow_trace, toIdle_trace, htrace]
    case byTeardown =>
      rintro rfl
      refine ⟨finish_byTeardown_life .., fun d c hr hdp hcp => ?_⟩
      rw [finish_byTeardown_trace (s := (s.written (lineAt s.pix n)).toIdle) (hready.trans hr) (hdata.trans hdp)
        (hclock.trans hcp), toIdle_trace, htrace]
      simp

/-! ### The steps of a frame that no reset cuts (R160, R162) -/

/-- A run of a machine begins with a step. -/
theorem run_of_step {M : Host.Core} {s t : M.State} (h : M.step s = .next t) (k : Nat) : M.run (k + 1) s = M.run k t := by
  rw [Host.Core.run, h]

/-- A run of a machine goes on with a step. -/
theorem run_succ {M : Host.Core} {s t u : M.State} {m : Nat} (h : M.run m s = .next t) (hstep : M.step t = .next u) :
    M.run (m + 1) s = .next u := by
  induction m generalizing s with
  | zero => cases h; exact run_of_step hstep 0
  | succ m ih =>
    rw [Host.Core.run] at h ⊢
    cases hs : M.step s with
    | next v => rw [hs] at h; exact ih h
    | fault r => rw [hs] at h; cases h
    | refused r => rw [hs] at h; cases h

/-- A reset that cuts no frame of a state cuts none of a state with the same inputs (R232). -/
theorem FrameUncut.of_host {s t : State} (hu : FrameUncut s) (h : t.host = s.host) : FrameUncut t := fun k rest hk =>
  hu k rest (h ▸ hk)

/-- A step of a frame that no reset cuts is its micro-step, and no reset cuts what is left of the frame (R156, R232). -/
theorem step_uncut {s : State} {owner : FrameOwner} {n : Fin Config.frameWrites} (ht : s.tx = .sending owner n)
    (hu : FrameUncut s) : step s = .next (txStep s) ∧ FrameUncut (txStep s) := by
  refine ⟨step_sending ht (resetDue_uncut ht hu), hu.of_host ?_⟩
  obtain ⟨w, ebuf, sr, ⟨_, e⟩ | ⟨-, e⟩⟩ := txStep_shape ht <;> rw [e]
  · exact written_host s w
  · obtain ⟨_, _, _, _, hfinish⟩ := finish_spec owner none (s.written w).toIdle
    rw [hfinish]
    exact written_host s w

/-- After `m` steps of a frame, the first `m` writes of its list have been made and the frame runs on (R158, R160). -/
theorem run_within_frame {s : State} {owner : FrameOwner} (ht : s.tx = .sending owner 0) (hu : FrameUncut s) :
    ∀ (m : Nat) (h : m < Config.frameWrites), ∃ u : State, core.run m s = .next u ∧ u.tx = .sending owner ⟨m, h⟩ ∧
      ShiftCoherent u ∧ FrameUncut u ∧ u.pix = s.pix ∧ u.trace = s.trace ++ setEvents ((frameOf s.pix).take m)
  | 0, _ => ⟨s, rfl, ht, shiftCoherent_start ht, hu, rfl, by simp [setEvents]⟩
  | m + 1, h => by
    obtain ⟨u, hrun, hut, huc, huu, hpix, htrace⟩ := run_within_frame ht hu m (Nat.lt_of_succ_lt h)
    obtain ⟨hstep, huu'⟩ := step_uncut hut huu
    obtain ⟨htx, hwrite⟩ := txStep_within hut huc h
    have hline : (frameOf s.pix)[m]? = some (lineAt s.pix m) := getElem?_frameOf s.pix ⟨m, Nat.lt_of_succ_lt h⟩
    refine ⟨txStep u, run_succ (M := core) hrun hstep, htx, huc.txStep hut, huu', (sameControl_txStep hut).pix.trans hpix, ?_⟩
    rw [hwrite, htrace, hpix, List.take_add_one, hline]
    simp [setEvents]

/-- The end of a command adds releases to the trace and nothing else, SHOW's end none (R150, R184). -/
theorem finish_trace (owner : FrameOwner) (err : Option Err) (s : State) :
    ∃ rels, (finish owner err s).trace = s.trace ++ rels ∧ (owner = .byShow → rels = []) ∧
      ∀ e ∈ rels, ∃ n, e = Event.rel n := by
  obtain ⟨rels, resp, hrels, hshow, e⟩ := finish_spec owner err s
  exact ⟨rels.reverse, by rw [e]; exact List.reverse_append, fun ho => by rw [hshow ho]; rfl, fun ev hev =>
    hrels ev (List.mem_reverse.mp hev)⟩

/-- Settles O37: 905 steps within the frame, and the step of its last position. -/
theorem bigStepAndMicroStepsAgree : Obligations.BigStepAndMicroStepsAgree := by
  intro s owner ht hu
  constructor
  · obtain ⟨u, hrun, hut, huc, huu, hpix, htrace⟩ := run_within_frame ht hu 905 (by decide)
    have hstep := (step_uncut hut huu).1
    have hlast := txStep_last hut huc rfl
    have htx : (txStep u).tx = .idle := by rw [hlast]; simp
    obtain ⟨rels, hfinish, hshow, hrels⟩ := finish_trace owner none (u.written (lineAt u.pix 905)).toIdle
    refine ⟨txStep u, rels, run_succ (M := core) hrun hstep, htx, by rw [htx]; rfl, ?_, hshow, hrels,
      (sameControl_txStep hut).pix.trans hpix⟩
    have hwrites : frameOf s.pix = (frameOf s.pix).take 905 ++ [lineAt s.pix 905] := by
      have hline : (frameOf s.pix)[905]? = some (lineAt s.pix 905) := getElem?_frameOf s.pix 905
      rw [← Option.toList_some, ← hline, ← List.take_add_one, List.take_of_length_le (by simp)]
    rw [hlast, hfinish, toIdle_trace, written_trace, htrace, hpix, hwrites]
    simp [setEvents]
  · intro m hm
    obtain ⟨u, hrun, hut, -, -, hpix, htrace⟩ := run_within_frame ht hu m hm
    have hposition : (⟨m, hm⟩ : Fin Config.frameWrites) = Fin.ofNat Config.frameWrites m :=
      Fin.ext (Nat.mod_eq_of_lt hm).symm
    exact ⟨u, hrun, hposition ▸ hut, hpix, htrace⟩

/-- From a position of any frame that no reset cuts, as many steps as writes are left lead to Idle (R162). -/
theorem run_to_idle : ∀ (k : Nat) {s : State} {owner : FrameOwner} {n : Fin Config.frameWrites},
    s.tx = .sending owner n → FrameUncut s → n.val + k = Config.frameWrites →
    ∃ t : State, core.run k s = .next t ∧ t.tx = .idle
  | 0, _, _, n, _, _, hk => absurd n.isLt (by omega)
  | k + 1, s, owner, n, ht, hu, hk => by
    obtain ⟨hstep, hu'⟩ := step_uncut ht hu
    obtain ⟨w, ebuf, sr, ⟨h, e⟩ | ⟨hlast, e⟩⟩ := txStep_shape ht
    · have htx : (txStep s).tx = .sending owner ⟨n.val + 1, h⟩ := by rw [e]; rfl
      obtain ⟨t, hrest, hidle⟩ := run_to_idle k htx hu' (by simp only; omega)
      exact ⟨t, (run_of_step (M := core) hstep k).trans hrest, hidle⟩
    · obtain rfl : k = 0 := by omega
      exact ⟨txStep s, run_of_step (M := core) hstep 0, by rw [e]; simp⟩

/-- Settles O38. -/
theorem everyFrameEnds : Obligations.EveryFrameEnds := fun _ _ n ht hu =>
  run_to_idle (906 - n.val) ht hu (Nat.add_sub_of_le n.isLt.le)

end Sys2Proof.Machine
end

section
/-! PROOFS about the transmitter (43_transmitter.md): the frame as a list of line writes, and SHOW. -/

namespace Sys2Proof.Machine

open Sys2Proof

/-! ### The frame bit by bit (R158) -/

/-- The bits of the 8 pixels in sending order (R62). -/
def pixelBits (pix : Vector Pixel Config.nPixels) : List Bool := pix.toList.flatMap bitsOf

theorem length_pixelBits (pix : Vector Pixel Config.nPixels) : (pixelBits pix).length = 256 := by
  simp [pixelBits, bitsOf, List.length_flatMap, Config.nPixels]

/-- Between its markers a frame is the writes of its pixels' bits. -/
theorem frameOf_eq_bits (pix : Vector Pixel Config.nPixels) :
    frameOf pix =
      markerWrites Config.startPulses ++ ((pixelBits pix).flatMap bitWrites ++ markerWrites Config.endPulses) := by
  rw [pixelBits, List.flatMap_assoc, ← List.append_assoc]
  rfl

/-! ### The bit stream (R161) -/

/-- Each pulse of a marker emits the 0 that the marker has written to the data line. -/
theorem bitstreamFrom_marker (pulses : Nat) (ws : List LineWrite) (d : DatLevel) :
    bitstreamFrom d (markerWrites pulses ++ ws) =
      List.replicate pulses (some false) ++ bitstreamFrom (some false) ws := by
  change bitstreamFrom (some false) ((List.replicate pulses _).flatten ++ ws) = _
  induction pulses with
  | zero => rfl
  | succ k ih =>
    simp only [List.replicate_succ, List.flatten_cons, List.cons_append, List.nil_append, bitstreamFrom, ih]

/-- Each pulse of a bit emits that bit; the end marker after the bits does not depend on the last one. -/
theorem bitstreamFrom_bits (bits : List Bool) (pulses : Nat) (d : DatLevel) :
    bitstreamFrom d (bits.flatMap bitWrites ++ markerWrites pulses) =
      bits.map some ++ List.replicate pulses (some false) := by
  induction bits generalizing d with
  | nil => simpa [bitstreamFrom] using bitstreamFrom_marker pulses [] d
  | cons x bits ih =>
    simp only [List.flatMap_cons, bitWrites, List.cons_append, List.nil_append, bitstreamFrom, ih, List.map_cons]

/-- The bit stream of a frame is its 324 bits (R62, R161). -/
theorem bitstream_frameOf (pix : Vector Pixel Config.nPixels) : bitstream (frameOf pix) = (frameBits pix).map some := by
  rw [bitstream, frameOf_eq_bits, bitstreamFrom_marker, bitstreamFrom_bits]
  simp [frameBits, pixelBits]

theorem length_bitstream_frameOf (pix : Vector Pixel Config.nPixels) : (bitstream (frameOf pix)).length = 324 := by
  have hbits : (pix.toList.flatMap bitsOf).length = 256 := length_pixelBits pix
  rw [bitstream_frameOf, List.length_map, frameBits, List.length_append, List.length_append, hbits]
  rfl

/-- Settles O31: the bits of a pixel in sending order are those of its word from the highest down. -/
theorem frameBitStream : Obligations.FrameBitStream := by
  intro pix
  have hbits : bitsOf = fun p => (List.range 32).map fun j => (pixelWord p).getLsbD (31 - j) :=
    funext fun p => msbFirst_eq_map_range (pixelWord p)
  refine ⟨?_, length_bitstream_frameOf pix⟩
  rw [bitstream_frameOf, frameBits, hbits]

/-! ### The counts (R159) -/

/-- Where every bit has equally many writes of a kind, whatever its value, the number in a frame is the same for every buffer. -/
theorem length_filter_frameOf (pix : Vector Pixel Config.nPixels) (p : LineWrite → Bool) (c : Nat)
    (hbit : ∀ x, ((bitWrites x).filter p).length = c) :
    ((frameOf pix).filter p).length =
      ((markerWrites 32).filter p).length + (256 * c + ((markerWrites 36).filter p).length) := by
  have hbits (bits : List Bool) : ((bits.flatMap bitWrites).filter p).length = bits.length * c := by
    simp [List.filter_flatMap, List.length_flatMap, hbit]
  rw [frameOf_eq_bits, List.filter_append, List.filter_append, List.length_append, List.length_append, hbits, length_pixelBits]

/-- Settles O32: a bit has two clock writes, one of them of 1, and one data write; the markers are fixed lists. -/
theorem frameCounts : Obligations.FrameCounts := by
  intro pix
  refine ⟨length_frameOf pix, ?clock, ?data, ?pulses, length_bitstream_frameOf pix⟩
  case clock => rw [length_filter_frameOf pix _ 2 (by decide)]; decide
  case data => rw [length_filter_frameOf pix _ 1 (by decide)]; decide
  case pulses => rw [length_filter_frameOf pix _ 1 (by decide)]; decide

/-! ### The pulses (R155) -/

/-- After writes whose pulses are whole, what follows decides. -/
theorem wholePulses_append {ws vs : List LineWrite} (h : wholePulses ws = true) : wholePulses (ws ++ vs) = wholePulses vs := by
  fun_induction wholePulses ws with
  | case1 => rfl
  | case2 _ ws ih => exact ih h
  | case3 ws ih => exact ih h
  | case4 => cases h

theorem wholePulses_bits (bits : List Bool) (ws : List LineWrite) :
    wholePulses (bits.flatMap bitWrites ++ ws) = wholePulses ws := by
  induction bits with
  | nil => rfl
  | cons x bits ih => exact ih

/-- Settles O34: the markers and the bits are made of whole pulses. -/
theorem framePulsesAreWhole : Obligations.FramePulsesAreWhole := by
  intro pix
  rw [frameOf_eq_bits, wholePulses_append (by decide), wholePulses_bits]
  decide

/-! ### SHOW (R150, R182) -/

/-- A response is no event (R52, R72). -/
@[simp] theorem respond_trace (s : State) (w : RespWord) : (s.respond w).trace = s.trace := rfl

/-! What a lazy setup that succeeded leaves (R182). -/

@[simp] theorem lazySetup_pix (s : State) : s.lazySetup.pix = s.pix := rfl
@[simp] theorem lazySetup_coe (s : State) : s.lazySetup.coe = s.coe := rfl
@[simp] theorem lazySetup_life (s : State) : s.lazySetup.life = s.life := rfl
@[simp] theorem lazySetup_host (s : State) : s.lazySetup.host = s.host := rfl
@[simp] theorem lazySetup_ready (s : State) : s.lazySetup.ready = true := rfl
@[simp] theorem lazySetup_dataPin (s : State) : s.lazySetup.dataPin = some 23 := rfl
@[simp] theorem lazySetup_clkPin (s : State) : s.lazySetup.clkPin = some 24 := rfl
@[simp] theorem lazySetup_trace (s : State) : s.lazySetup.trace = s.trace ++ [.acq 23, .acq 24] := by
  simp [State.trace, State.lazySetup, useAnswers]

/-- Settles O39: the whole frame is written, and then SHOW answers. -/
theorem showSendsTheFrame : Obligations.ShowSendsTheFrame := by
  intro s hs hr hu
  obtain ⟨hdat, hclk⟩ := writeAll_frame_levels s.pix s
  refine ⟨_, exec_showFrame_next hs, ?_⟩
  rw [sendFrame_ready .byShow hr hu]
  simp [hdat, hclk, hr]

/-- Settles O40, by the provider's two answers (R217): a refusal ends the command at once, two grants begin the frame. -/
theorem showSetsUpLazily : Obligations.ShowSetsUpLazily := by
  intro s hs hr hu
  have ht : s.tx = .idle := hs.2
  rw [exec_showFrame_next hs, sendFrame_unready .byShow hr ht hu]
  cases h0 : answerAt s 0
  case false => exact ⟨_, rfl, ht, rfl, rfl, rfl, rfl, by simp, by simp, fun _ => rfl⟩
  case true =>
    cases h1 : answerAt s 1
    case false => exact ⟨_, rfl, ht, rfl, rfl, rfl, rfl, by simp, fun _ _ => rfl, by simp⟩
    case true =>
      obtain ⟨hdat, hclk⟩ := writeAll_frame_levels s.pix s.lazySetup
      refine ⟨_, rfl, ?_⟩
      simp [hdat, hclk]

end Sys2Proof.Machine
end

section
/-! PROOFS about the lifecycle (44_driver_lifecycle.md): when the block takes a command, SETUP, SETCOE and TEARDOWN. -/

namespace Sys2Proof.Machine

open Sys2Proof

/-! ### When the block takes a command (R47, R185) -/

theorem taken_released {s : State} (hl : s.life = .released) (run : State → State) : taken s run = .fault .released := by
  simp [taken, hl]

theorem taken_busy {s : State} {owner : FrameOwner} {n : Fin Config.frameWrites} (hl : s.life = .alive)
    (ht : s.tx = .sending owner n) (run : State → State) : taken s run = .fault .busy := by
  simp [taken, hl, ht]

/-- Whether a command runs is decided by the taking alone, whatever the command is (R47). -/
theorem exec_eq_taken (i : Instr) : ∃ run : State → State, ∀ s, exec i s = taken s run := by
  by_cases hb : isBufferCommand i = true
  · obtain ⟨body, hbody, -⟩ := exec_buffer i hb
    exact ⟨_, hbody⟩
  · cases i with
    | showFrame => exact ⟨_, exec_showFrame⟩
    | setup d c => exact ⟨_, exec_setup d c⟩
    | setcoe f => exact ⟨_, exec_setcoe f⟩
    | teardown => exact ⟨_, exec_teardown⟩
    | _ => exact absurd rfl hb

theorem exec_released {s : State} (hl : s.life = .released) (i : Instr) : exec i s = .fault .released := by
  obtain ⟨run, hrun⟩ := exec_eq_taken i
  rw [hrun, taken_released hl]

theorem exec_busy {s : State} {owner : FrameOwner} {n : Fin Config.frameWrites} (hl : s.life = .alive)
    (ht : s.tx = .sending owner n) (i : Instr) : exec i s = .fault .busy := by
  obtain ⟨run, hrun⟩ := exec_eq_taken i
  rw [hrun, taken_busy hl ht]

/-- A released block takes no word from the port, be it legal or not (R185). -/
theorem takeWord_released {s : State} (hl : s.life = .released) (w : CmdWord) : takeWord w s = .fault .released := by
  unfold takeWord
  cases decode w with
  | ok i => exact exec_released hl i
  | error e => exact taken_released hl _

/-- Settles O10, by what the host offers a released block: nothing, a command word, or a reset, which is excluded. -/
theorem releasedBlockTakesNothing : Obligations.ReleasedBlockTakesNothing := by
  refine ⟨fun s hl ht hreset => ?_, fun s i hl => exec_released hl i, fun s i owner n hl ht => exec_busy hl ht i⟩
  cases hh : s.host with
  | nil => simp [step, portStep, resetDue, idleStep, ht, hh, hl]
  | cons x rest =>
    cases x with
    | reset k => exact absurd hh (hreset k rest)
    | command w =>
      have hstep : step s = takeWord w s.popHost := by simp [step, portStep, resetDue, ht, hh]
      rw [hstep]
      exact takeWord_released (s := s.popHost) hl w

/-! ### SETUP and SETCOE (R180, R183) -/

/-- SETUP with two legal, different pins answers as its acquisitions end (R180). -/
theorem exec_setup_legal {s : State} {d c : Nat} (hs : Takes s) (hd : 1 ≤ d ∧ d ≤ 27) (hc : 1 ≤ c ∧ c ≤ 27) (hne : d ≠ c) :
    exec (.setup d c) s = .next (acquirePins d c s).answer := by
  rw [exec_setup_next hs, setupBody_legal hd hc hne]

/-- Settles O42: no test of READY stands before the two acquisitions (R181). -/
theorem setupAssignsThePins : Obligations.SetupAssignsThePins := by
  intro s d c hs hd hc hne h0 h1
  rw [exec_setup_legal hs hd hc hne, acquirePins_eq, if_pos h0, if_pos h1]
  rfl

/-- Settles O44: the registers are written only after the second grant. -/
theorem setupRefusedChangesNoRegister : Obligations.SetupRefusedChangesNoRegister := by
  intro s d c hs hd hc hne
  rw [exec_setup_legal hs hd hc hne, acquirePins_eq]
  constructor
  · intro h0
    rw [if_neg (by simp [h0])]
    rfl
  · intro h0 h1
    rw [if_pos h0, if_neg (by simp [h1])]
    rfl

/-- Settles O45. -/
theorem setcoeWritesTheFlagOnly : Obligations.SetcoeWritesTheFlagOnly := fun s f hs =>
  (exec_setcoe f s).trans (taken_eq hs _)

/-! ### TEARDOWN with COE = 0 (R186) -/

theorem exec_teardown_plain {s : State} (hs : Takes s) (hcoe : s.coe = false) :
    exec .teardown s = .next (teardownTail none s).answer := by
  rw [exec_teardown_next hs, if_neg (by simp [hcoe])]

/-- Settles O46: only the last lines of TEARDOWN run, with the handles or without. -/
theorem teardownWithoutClearOnExit : Obligations.TeardownWithoutClearOnExit := by
  intro s hs hcoe
  rw [exec_teardown_plain hs hcoe]
  constructor
  · intro hr
    rw [teardownTail_unready none hr]
    rfl
  · intro d c hr hd hc
    rw [teardownTail_ready hr hd hc]
    rfl

/-! ### TEARDOWN with COE = 1 (R184, R186) -/

theorem exec_teardown_dark {s : State} (hs : Takes s) (hcoe : s.coe = true) :
    exec .teardown s = .next (sendFrame .byTeardown (cleared s)) := by
  rw [exec_teardown_next hs, if_pos hcoe]

/-- The end of a command is no input of the host (R27). -/
@[simp] theorem finish_host (owner : FrameOwner) (err : Option Err) (s : State) : (finish owner err s).host = s.host := by
  obtain ⟨_, _, _, _, h⟩ := finish_spec owner err s; rw [h]

/-- TEARDOWN's end on a block that holds no handles makes no event (R184, R186). -/
theorem finish_byTeardown_trace_unready {s : State} (err : Option Err) (hr : s.ready = false) :
    (finish .byTeardown err s).trace = s.trace := by
  rw [finish, teardownTail_unready err hr]
  rfl

/-! The clearing step is a matter of the buffer alone (R123, R184), and using up answers one of the provider alone (R217). -/

@[simp] theorem cleared_host (s : State) : (cleared s).host = s.host := by rw [cleared_eq]
@[simp] theorem cleared_trace (s : State) : (cleared s).trace = s.trace := by rw [cleared_eq]; rfl
@[simp] theorem answerAt_cleared (s : State) (k : Nat) : answerAt (cleared s) k = answerAt s k := by rw [cleared_eq]; rfl

@[simp] theorem useAnswers_pix (k : Nat) (s : State) : (useAnswers k s).pix = s.pix := rfl
@[simp] theorem useAnswers_ready (k : Nat) (s : State) : (useAnswers k s).ready = s.ready := rfl
@[simp] theorem useAnswers_coe (k : Nat) (s : State) : (useAnswers k s).coe = s.coe := rfl
@[simp] theorem useAnswers_dataPin (k : Nat) (s : State) : (useAnswers k s).dataPin = s.dataPin := rfl
@[simp] theorem useAnswers_clkPin (k : Nat) (s : State) : (useAnswers k s).clkPin = s.clkPin := rfl
@[simp] theorem useAnswers_host (k : Nat) (s : State) : (useAnswers k s).host = s.host := rfl
@[simp] theorem useAnswers_trace (k : Nat) (s : State) : (useAnswers k s).trace = s.trace := rfl

/-- A frame of TEARDOWN on held handles makes its line writes and then the two releases (R184). -/
theorem teardownFrame_trace {s : State} {d c : Nat} (hr : s.ready = true) (hd : s.dataPin = some d) (hc : s.clkPin = some c)
    (ws : List LineWrite) :
    (finish .byTeardown none (s.writeAll ws).toIdle).trace = s.trace ++ setEvents ws ++ [.rel d, .rel c] := by
  rw [finish_byTeardown_trace (d := d) (c := c) (by simpa using hr) (by simpa using hd) (by simpa using hc), toIdle_trace,
    writeAll_trace]

/-- The answer to a refused acquisition (R72, R205). -/
theorem errWord_gpioAcquireFailed : errWord .gpioAcquireFailed = 0x05000000 := by decide

/-- SHOW's work that no reset cuts comes to the end of its command, whatever the provider answers (R162, R182). -/
theorem sendFrame_uncut_ends {s : State} (owner : FrameOwner) (ht : s.tx = .idle) (hu : FrameUncut s) :
    ∃ err u, sendFrame owner s = finish owner err u ∧ u.tx = .idle ∧ u.host = s.host := by
  cases hr : s.ready
  case true => exact ⟨_, _, sendFrame_ready owner hr hu, rfl, by simp⟩
  case false =>
    rw [sendFrame_unready owner hr ht hu]
    split_ifs
    · exact ⟨_, _, rfl, rfl, by simp⟩
    · exact ⟨_, _, rfl, ht, rfl⟩
    · exact ⟨_, _, rfl, ht, rfl⟩

/-- A TEARDOWN that no reset cuts ends the life, whatever happened (R184). -/
theorem sendFrame_byTeardown_ends {s : State} (ht : s.tx = .idle) (hu : FrameUncut s) :
    (sendFrame .byTeardown s).life = .released ∧ (sendFrame .byTeardown s).tx = .idle ∧
      (sendFrame .byTeardown s).host = s.host := by
  obtain ⟨err, u, e, hidle, hhost⟩ := sendFrame_uncut_ends .byTeardown ht hu
  rw [e]
  exact ⟨finish_byTeardown_life err u, (finish_tx ..).trans hidle, (finish_host ..).trans hhost⟩

/-- Settles O47: in every case the clearing and the end of the life; then, by READY and by the provider's two answers to a lazy
setup (R182, R217), the events and what the setup leaves. -/
theorem teardownWithClearOnExit : Obligations.TeardownWithClearOnExit := by
  refine ⟨fun s hs hcoe hu => ⟨_, exec_teardown_dark hs hcoe, ?command⟩, fun pix k => ?word⟩
  case command =>
    have ht : (cleared s).tx = .idle := (cleared_tx s).trans hs.2
    have hu' : FrameUncut (cleared s) := hu.of_host (cleared_host s)
    obtain ⟨hlife, hidle, hhost⟩ := sendFrame_byTeardown_ends ht hu'
    have unready (hr : s.ready = false) := sendFrame_unready .byTeardown ((cleared_ready s).trans hr) ht hu'
    refine ⟨hlife, hidle, (sendFrame_coe ..).trans ((cleared_coe s).trans hcoe), hhost.trans (cleared_host s),
      (sendFrame_pix ..).trans (cleared_pix s), fun d c hr hd hc => ?ready, fun hr h0 h1 => ?lazily,
      fun hr h0 h1 => ?refusedClock, fun hr h0 => ?refusedData⟩
    case ready =>
      have hr' : (cleared s).ready = true := (cleared_ready s).trans hr
      have htrace := teardownFrame_trace hr' ((cleared_dataPin s).trans hd) ((cleared_clkPin s).trans hc)
      obtain ⟨hdat, hclk⟩ := writeAll_frame_levels (clearedPixels s.pix) (cleared s)
      rw [sendFrame_ready .byTeardown hr' hu', htrace]
      simp [hdat, hclk, hr, hd, hc]
    case lazily =>
      have htrace := teardownFrame_trace (s := (cleared s).lazySetup) rfl rfl rfl
      obtain ⟨hdat, hclk⟩ := writeAll_frame_levels (clearedPixels s.pix) (cleared s).lazySetup
      rw [unready hr, if_pos (by simp [h0]), if_pos (by simp [h1]), htrace]
      simp [hdat, hclk]
    case refusedClock =>
      rw [unready hr, if_pos (by simp [h0]), if_neg (by simp [h1]), finish_byTeardown_trace_unready _ (by simp [hr])]
      simp [hr, errWord_gpioAcquireFailed]
    case refusedData =>
      rw [unready hr, if_neg (by simp [h0]), finish_byTeardown_trace_unready _ (by simp [hr])]
      simp [hr, errWord_gpioAcquireFailed]
  case word =>
    rw [clearedPixels_getElem]
    exact pixelWord_dark _

end Sys2Proof.Machine
end

section
/-! PROOFS about exceptions (60_exceptions.md): which error an operand out of range is answered with, and the form of every answer.
The rule of each command with its operands legal, and with one of them bad, is taken from the proofs about that command. -/

namespace Sys2Proof.Machine

open Sys2Proof

/-! ### A bad colour (R201) -/

/-- The index operand, if the command has one, names a pixel (R100, R203). -/
abbrev IndexLegal (i : Instr) : Prop := ∀ x, indexOperand i = some x → 0 ≤ x ∧ x ≤ 7

/-- Every colour operand of the command is a byte (R201). -/
abbrev ColoursLegal (i : Instr) : Prop := ∀ v ∈ colorOperands i, 0 ≤ v ∧ v ≤ 255

/-- The three colour operands of a command that rewrites whole records (R105, R120, R121). -/
theorem forall_mem_rgb {r g b : Int} :
    (∀ v ∈ [r, g, b], 0 ≤ v ∧ v ≤ 255) ↔ (0 ≤ r ∧ r ≤ 255) ∧ (0 ≤ g ∧ g ≤ 255) ∧ (0 ≤ b ∧ b ≤ 255) := by
  rw [List.forall_mem_cons, List.forall_mem_cons, List.forall_mem_singleton]

/-- Once its index has passed, a command with a bad colour answers InvalidColorValue and nothing else happens (R201, R209). -/
theorem exec_badColour {i : Instr} {s : State} (hs : Takes s) (hi : IndexLegal i) (hcol : ¬ ColoursLegal i) :
    exec i s = .next { s with resp := 0x01000000 } := by
  obtain ⟨-, -, badSetter⟩ := colourSettersWriteOneChannel s hs
  have badOne {v : Int} (h : ¬ ∀ w ∈ [v], 0 ≤ w ∧ w ≤ 255) : ¬ (0 ≤ v ∧ v ≤ 255) := by
    rwa [List.forall_mem_singleton] at h
  cases i with
  | setr x v => exact (badSetter x v (hi x rfl) (badOne hcol)).1
  | setg x v => exact (badSetter x v (hi x rfl) (badOne hcol)).2.1
  | setb x v => exact (badSetter x v (hi x rfl) (badOne hcol)).2.2
  | setrgbb x r g b br =>
    obtain ⟨-, -, badColour, -⟩ := setrgbbIsAllOrNothing s hs
    exact badColour x r g b br (hi x rfl) (mt forall_mem_rgb.mpr hcol)
  | setpix x r g b =>
    obtain ⟨k, rfl⟩ := exists_pixel_of_index (hi x rfl)
    exact exec_eq_next_answer hs (setpixBody_badColor k (mt forall_mem_rgb.mpr hcol) none s) rfl
  | setpixBr x r g b br =>
    obtain ⟨k, rfl⟩ := exists_pixel_of_index (hi x rfl)
    exact exec_eq_next_answer hs (setpixBody_badColor k (mt forall_mem_rgb.mpr hcol) (some br) s) rfl
  | setpixs r g b => exact exec_eq_next_answer hs (setpixsBody_badColor (mt forall_mem_rgb.mpr hcol) none s) rfl
  | setpixsBr r g b br => exact exec_eq_next_answer hs (setpixsBody_badColor (mt forall_mem_rgb.mpr hcol) (some br) s) rfl
  | _ => exact absurd (List.forall_mem_nil _) hcol

/-- Settles O18: with one colour out of range, not all colours are legal. -/
theorem colourOutOfRangeChangesNothing : Obligations.ColourOutOfRangeChangesNothing := by
  rintro i s hs hi ⟨v, hv, hbad⟩
  refine exec_badColour hs hi fun hcol => ?_
  have := hcol v hv
  omega

/-! ### The brightness (R202) -/

/-- Three legal colour operands are three bytes (R201). -/
theorem exists_bytes_of_rgb {r g b : Int} (h : ∀ v ∈ [r, g, b], 0 ≤ v ∧ v ≤ 255) :
    ∃ x y z : Byte, r = (x.toNat : Int) ∧ g = (y.toNat : Int) ∧ b = (z.toNat : Int) :=
  (colors_cases r g b).resolve_right (not_not.mpr (forall_mem_rgb.mp h))

/-- Once its index and its colours have passed, a command with a bad brightness answers InvalidBrightnessLevel and nothing else
happens (R202, R209). -/
theorem exec_badBrightness {i : Instr} {n : Int} {s : State} (hs : Takes s) (hi : IndexLegal i) (hcol : ColoursLegal i)
    (hbrt : brightnessOperand i = some n) (hn : ¬ (0 ≤ n ∧ n ≤ 1000)) : exec i s = .next { s with resp := 0x02000000 } := by
  cases i with cases hbrt
  | psetbr x =>
    obtain ⟨-, -, bad⟩ := psetbrWritesBrightness s hs
    exact bad x n (hi x rfl) hn
  | setrgbb x r g b =>
    obtain ⟨-, -, -, bad⟩ := setrgbbIsAllOrNothing s hs
    exact bad x r g b n (hi x rfl) (forall_mem_rgb.mp hcol) hn
  | setpixBr x r g b =>
    obtain ⟨k, rfl⟩ := exists_pixel_of_index (hi x rfl)
    obtain ⟨r, g, b, rfl, rfl, rfl⟩ := exists_bytes_of_rgb hcol
    exact exec_eq_next_answer hs (setpixBody_badBrightness k r g b hn s) rfl
  | setpixsBr r g b =>
    obtain ⟨r, g, b, rfl, rfl, rfl⟩ := exists_bytes_of_rgb hcol
    exact exec_eq_next_answer hs (setpixsBody_badBrightness r g b hn s) rfl
  | setbrt => exact (setbrtWritesEveryPixel s hs).2 n hn

/-- A command that is given a brightness succeeds when all its operands are legal (R104, R105, R120 to R122). -/
theorem exec_legalBrightness {i : Instr} {n : Nat} {s : State} (hs : Takes s) (hi : IndexLegal i) (hcol : ColoursLegal i)
    (hbrt : brightnessOperand i = some (n : Int)) (hn : n ≤ 1000) : ∃ t, exec i s = .next t ∧ t.resp = 0 := by
  cases i with cases hbrt
  | psetbr x =>
    obtain ⟨k, rfl⟩ := exists_pixel_of_index (hi x rfl)
    exact ⟨_, (psetbrWritesBrightness s hs).1 k n hn, rfl⟩
  | setrgbb x r g b =>
    obtain ⟨k, rfl⟩ := exists_pixel_of_index (hi x rfl)
    obtain ⟨r, g, b, rfl, rfl, rfl⟩ := exists_bytes_of_rgb hcol
    exact ⟨_, (setrgbbIsAllOrNothing s hs).1 k r g b n hn, rfl⟩
  | setpixBr x r g b =>
    obtain ⟨k, rfl⟩ := exists_pixel_of_index (hi x rfl)
    obtain ⟨r, g, b, rfl, rfl, rfl⟩ := exists_bytes_of_rgb hcol
    exact ⟨_, (setpixWritesOnePixel s hs).2 k r g b n hn, rfl⟩
  | setpixsBr r g b =>
    obtain ⟨r, g, b, rfl, rfl, rfl⟩ := exists_bytes_of_rgb hcol
    exact ⟨_, (setpixsWritesEveryPixel s r g b hs).2 n hn, rfl⟩
  | setbrt => exact ⟨_, (setbrtWritesEveryPixel s hs).1 n hn, rfl⟩

/-- A command makes one state, and so has one response. -/
theorem resp_of_exec {i : Instr} {s t u : State} (ht : exec i s = .next t) (hu : exec i s = .next u) : t.resp = u.resp := by
  cases ht.symm.trans hu
  rfl

/-- Settles O19: a command that answers the error has a brightness operand; its index, its colours and its brightness are tested in
this order, and each of the other ends has another status. -/
theorem brightnessOutOfRangeChangesNothing : Obligations.BrightnessOutOfRangeChangesNothing := by
  refine ⟨fun i n s hs hi hcol hbrt hn => exec_badBrightness hs hi hcol hbrt (by omega), fun i s t h ht hstatus => ?_⟩
  obtain ⟨hs, -⟩ := exec_effect h
  have status {u : State} (hu : exec i s = .next u) : respStatus u.resp = 2 := resp_of_exec h hu ▸ hstatus
  have hi : IndexLegal i := fun x hx => by
    by_contra hbad
    exact absurd (status (exec_badIndex hs hx hbad)) (by decide : respStatus 0x03000000 ≠ 2)
  have hcol : ColoursLegal i := by
    by_contra hbad
    exact absurd (status (exec_badColour hs hi hbad)) (by decide : respStatus 0x01000000 ≠ 2)
  have hsome : brightnessOperand i ≠ none := (exec_answer h ht).canRaise (e := .invalidBrightnessLevel) hstatus
  obtain ⟨n, hbrt⟩ := Option.ne_none_iff_exists'.mp hsome
  refine ⟨⟨n, hbrt, ?_⟩, hi, hcol⟩
  rcases brightness_cases n with ⟨m, hm, rfl⟩ | hbad
  · obtain ⟨u, hu, hzero⟩ := exec_legalBrightness hs hi hcol hbrt hm
    exact absurd (status hu) (hzero ▸ by decide)
  · omega

/-! ### The pins of SETUP (R204) -/

/-- Settles O43: the two pins are tested before the first call on the provider. -/
theorem setupRejectsBadPins : Obligations.SetupRejectsBadPins := by
  intro s d c hs h
  rw [exec_setup_next hs, setupBody_illegal h]
  rfl

/-! ### The form of an answer (R72, R200) -/

/-- Bits 23:16 of a value's response are 0 (R72). -/
theorem reserved_okWord (v : BitVec 16) : (okWord v).extractLsb' 16 8 = 0 := by
  rw [okWord, BitVec.extractLsb'_append_eq_of_le (by decide)]
  rfl

/-- Bits 23:16 of an error's response are 0 (R72). -/
theorem reserved_errWord (e : Err) : (errWord e).extractLsb' 16 8 = 0 := by
  cases e <;> decide

/-- An error carries the value 0 (R72, R210). -/
theorem respValue_errWord (e : Err) : respValue (errWord e) = 0 := by
  cases e <;> decide

/-- The errors that a command can end with are the first five of R200's table: no write fails (R206), and a decoded command is not
illegal (R207). -/
theorem CanRaise.code_le {i : Instr} {e : Err} (h : CanRaise i e) : e.code.toNat ≤ 5 := by
  cases e
  case gpioWriteFailed | illegalCommand => exact h.elim
  all_goals decide

/-- Settles O57: the two forms of an answer, a value and an error that the command can raise. -/
theorem errorsCarryNoValue : Obligations.ErrorsCarryNoValue := by
  intro i s t h ht
  rcases exec_answer h ht with ⟨v, hw⟩ | ⟨e, hw, he⟩ <;> rw [hw]
  · rw [respStatus_okWord]
    exact ⟨by decide, reserved_okWord v, fun hne => absurd rfl hne⟩
  · rw [respStatus_errWord]
    exact ⟨he.code_le, reserved_errWord e, fun _ => respValue_errWord e⟩

end Sys2Proof.Machine
end

section
/-! PROOFS about reset and hazards (70_reset_and_hazards.md): the idle block, a reset that arrives, the rising edges of a frame, and
how many events each command makes. -/

namespace Sys2Proof.Machine

open Sys2Proof

/-! ### The idle block (R231) -/

/-- An idle, living block with nothing on the port waits (R231): no reset is due, for the host has no input. -/
theorem step_idle {s : State} (hs : Takes s) (hh : s.host = []) : step s = .next s := by
  obtain ⟨hl, ht⟩ := hs
  have hd : resetDue s = false := by simp [resetDue, hh]
  simp [step, portStep, hd, ht, hh, idleStep, hl]

/-- Settles O7: the reset state is idle and alive, and its port is empty. -/
theorem idleBlockDoesNothing : Obligations.IdleBlockDoesNothing :=
  ⟨step_idle ⟨rfl, rfl⟩ rfl, fun _ => step_idle⟩

/-! ### A reset that arrives (R230, R232) -/

/-- A reset at the front of the host's inputs is due at once in Idle, and in a frame once as many writes as it waits for have
been made (R232). -/
theorem resetDue_of_reset {s : State} {k : Nat} {rest : List HostInput} (hh : s.host = .reset k :: rest)
    (ht : s.tx = .idle ∨ ∃ owner n, s.tx = .sending owner n ∧ k ≤ n.val) : resetDue s = true := by
  rcases ht with ht | ⟨owner, n, ht, hk⟩
  · simp [resetDue, hh, ht]
  · simp [resetDue, hh, ht, hk]

/-- Settles O9: the step is the reset that is due, and it takes the reset from the port. -/
theorem resetComesInAnyState : Obligations.ResetComesInAnyState := by
  intro s k rest hh ht
  rw [step_reset (resetDue_of_reset hh ht), State.hostReset, hh]
  rfl

/-! ### The rising edges of a frame (R235) -/

/-- Where every pulse is whole, the clock is at 0 before each pulse but perhaps the first, so every write of 1 is certainly a
rising edge, but for the first one when the clock is not known to be at 0 before it. -/
theorem sureRisingEdges_of_wholePulses (ws : List LineWrite) (h : wholePulses ws = true) (l : Level) :
    sureRisingEdges l ws = (ws.filter fun w => w = (.clk, true)).length - if l = .zero then 0 else 1 := by
  fun_induction wholePulses ws generalizing l with
  | case1 => exact (Nat.zero_sub _).symm
  | case2 v ws ih =>
    rw [sureRisingEdges, ih h l]
    rfl
  | case3 ws ih =>
    have hfirst : sureRisingEdges l ((.clk, true) :: (.clk, false) :: ws) =
        (if l = .zero then 1 else 0) + sureRisingEdges .zero ws := rfl
    rw [hfirst, ih h]
    by_cases hl : l = .zero <;> simp [hl, Nat.add_comm]
  | case4 => cases h

/-- Settles O35: a frame is made of 324 whole pulses. -/
theorem frameRisingEdges : Obligations.FrameRisingEdges := by
  intro pix
  obtain ⟨-, -, -, hpulses, -⟩ := frameCounts pix
  have hedges := sureRisingEdges_of_wholePulses (frameOf pix) (framePulsesAreWhole pix)
  rw [hpulses] at hedges
  exact ⟨hedges .x, hedges .one, hedges .zero⟩

/-! ### The number of events of a command (R247) -/

/-- No event is one that a buffer command or SETCOE may make (R52, R126). -/
theorem not_mayMake {i : Instr} (hi : isBufferCommand i = true ∨ ∃ f, i = .setcoe f) (e : Event) : ¬ MayMake i e := by
  cases i with
  | setup | showFrame | teardown => simp [isBufferCommand] at hi
  | _ => cases e <;> simp [MayMake]

/-- A command that may make no event leaves the trace as it is. -/
theorem GrowsTrace.trace_eq {i : Instr} {s t : State} (h : GrowsTrace i s t) (hi : ∀ e, ¬ MayMake i e) : t.trace = s.trace := by
  obtain ⟨es, htrace, hmay⟩ := h
  rw [htrace, List.eq_nil_iff_forall_not_mem.mpr fun e he => hi e (hmay e he), List.append_nil]

@[simp] theorem assignPins_trace (s : State) (d c : Nat) : (s.assignPins d c).trace = s.trace := rfl

/-- SETUP by the status it answers (R180): both acquisitions when it succeeds, none with bad pins, and one or both when the
provider refuses. -/
theorem exec_setup_events {d c : Int} {s t : State} (h : exec (.setup d c) s = .next t) :
    (respStatus t.resp = 0 → t.trace.length = s.trace.length + 2) ∧
    (respStatus t.resp = 4 → t.trace.length = s.trace.length) ∧
    (respStatus t.resp = 5 → t.trace.length = s.trace.length + 1 ∨ t.trace.length = s.trace.length + 2) := by
  obtain ⟨-, rfl⟩ := taken_eq_next.mp (exec_setup d c s ▸ h)
  rcases setupBody_cases d c s with e | ⟨m, n, -, -, -, e | e | e⟩ <;> rw [e]
  · simp [Err.code]
  · simp [Err.code]
  · simp [Err.code]
  · have hok : respStatus 0#32 = 0#8 := by decide
    simp [hok]

/-- The state that holds the handles of a frame: the block itself if ready, else what a lazy setup leaves (R150, R182). -/
def State.withHandles (s : State) : State := if s.ready then s else s.lazySetup

@[simp] theorem withHandles_ready (s : State) : s.withHandles.ready = true := by
  unfold State.withHandles
  split
  · assumption
  · rfl

theorem length_trace_withHandles (s : State) :
    s.withHandles.trace.length = s.trace.length + if s.ready then 0 else 2 := by
  unfold State.withHandles
  split <;> simp

theorem readyHasPins_withHandles {s : State} (h : ReadyHasPins s) : ReadyHasPins s.withHandles := by
  unfold State.withHandles
  split
  · exact h
  · exact fun _ => ⟨23, 24, rfl, rfl, by decide, by decide, by decide⟩

/-- The line writes of a frame, and its end, write no control register (R24, R156). -/
theorem sameControl_writeAll_toIdle (ws : List LineWrite) (s : State) : SameControl s (s.writeAll ws).toIdle :=
  ⟨writeAll_pix .., writeAll_ready .., writeAll_coe .., writeAll_dataPin .., writeAll_clkPin ..⟩

/-- SHOW's work that no reset cuts and that answers status 0 has sent a whole frame (R150, R182): a refused lazy setup would have
answered its error. -/
theorem sendFrame_succeeded {s : State} {owner : FrameOwner} (ht : s.tx = .idle) (hu : FrameUncut s)
    (hok : respStatus (sendFrame owner s).resp = 0) :
    sendFrame owner s = finish owner none (s.withHandles.writeAll (frameOf s.pix)).toIdle := by
  have refused (u : State) : respStatus (finish owner (some .gpioAcquireFailed) u).resp ≠ 0 := by simp [Err.code]
  cases hr : s.ready
  case true => rw [sendFrame_ready owner hr hu, State.withHandles, if_pos hr]
  case false =>
    rw [sendFrame_unready owner hr ht hu] at hok ⊢
    split_ifs at hok ⊢
    · rw [State.withHandles, if_neg (by simp [hr])]
    · exact absurd hok (refused _)
    · exact absurd hok (refused _)

theorem length_trace_frame (s : State) (pix : Vector Pixel Config.nPixels) :
    (s.withHandles.writeAll (frameOf pix)).toIdle.trace.length = s.trace.length + if s.ready then 906 else 2 + 906 := by
  rw [toIdle_trace, writeAll_trace, List.length_append, length_setEvents, length_frameOf, length_trace_withHandles]
  split <;> rfl

/-- TEARDOWN's last lines make two events, the releases, if the block holds handles (R184). -/
theorem length_trace_finish_byTeardown {s : State} (h : ReadyHasPins s) :
    (finish .byTeardown none s).trace.length = s.trace.length + if s.ready then 2 else 0 := by
  cases hr : s.ready
  case false => simp [finish_byTeardown_trace_unready none hr]
  case true =>
    obtain ⟨d, c, hd, hc, -⟩ := h hr
    simp [finish_byTeardown_trace hr hd hc]

/-- A SHOW that answers status 0 makes the 906 line writes, after the two acquisitions of a lazy setup if the block was not ready
(R159, R182). -/
theorem exec_showFrame_events {s t : State} (h : exec .showFrame s = .next t) (hu : FrameUncut s)
    (hok : respStatus t.resp = 0) : t.trace.length = s.trace.length + if s.ready then 906 else 2 + 906 := by
  obtain ⟨⟨-, ht⟩, rfl⟩ := taken_eq_next.mp (exec_showFrame s ▸ h)
  rw [sendFrame_succeeded ht hu hok, finish_byShow_trace, length_trace_frame]

/-- A TEARDOWN that answers status 0 makes, with COE = 1, the events of a SHOW and the two releases; with COE = 0, the releases of
the handles it holds (R184, R186). -/
theorem exec_teardown_events {s t : State} (h : exec .teardown s = .next t) (hu : FrameUncut s)
    (hok : respStatus t.resp = 0) (hpins : ReadyHasPins s) :
    t.trace.length = s.trace.length +
      if s.coe then (if s.ready then 906 + 2 else 2 + 906 + 2) else (if s.ready then 2 else 0) := by
  obtain ⟨hs, -⟩ := exec_effect h
  cases hcoe : s.coe
  case false =>
    cases (exec_teardown_plain hs hcoe).symm.trans h
    exact length_trace_finish_byTeardown hpins
  case true =>
    cases (exec_teardown_dark hs hcoe).symm.trans h
    have hframe := sameControl_writeAll_toIdle (frameOf (cleared s).pix) (cleared s).withHandles
    have hpins' : ReadyHasPins (cleared s) := by
      unfold ReadyHasPins
      rwa [cleared_ready, cleared_dataPin, cleared_clkPin]
    rw [sendFrame_succeeded ((cleared_tx s).trans hs.2) (hu.of_host (cleared_host s)) hok,
      length_trace_finish_byTeardown (hframe.readyHasPins (readyHasPins_withHandles hpins')), length_trace_frame,
      cleared_trace, cleared_ready, hframe.ready, withHandles_ready]
    cases s.ready <;> rfl

/-- Settles O58: buffer commands and SETCOE may make no event, and each of the other commands has its count. -/
theorem eventCounts : Obligations.EventCounts := by
  intro i s t h hu
  refine ⟨fun hi => ?silent, ?setup, ?showFrame, ?teardown⟩
  case silent => rw [(exec_growsTrace h).trace_eq (not_mayMake hi)]
  case setup =>
    rintro ⟨d, c, rfl⟩
    exact exec_setup_events h
  case showFrame =>
    rintro rfl hok
    exact exec_showFrame_events h hu hok
  case teardown =>
    rintro rfl hok hpins
    exact exec_teardown_events h hu hok hpins

end Sys2Proof.Machine
end
